-- ==== Sys2Proof/Word.lean ====
section
/-! DEFINITION. The words of the block: a byte, a bus address, a transaction word, and a sparse byte memory. -/

namespace Sys2Proof

/-- One byte (R10). -/
abbrev Byte := BitVec 8

/-- A 16-bit bus address (R31). -/
abbrev BusAddr := BitVec 16

/-- A 28-bit transaction word (R48). -/
abbrev TWord := BitVec 28

/-- The listed bytes of a backing store, as (index, byte) pairs with strictly rising indices.
An unlisted index has no value here: the store that uses the memory says what reading it gives. -/
abbrev Memory := List Host.Cell

end Sys2Proof
end

