-- ==== Sys2Proof/Syntax.lean ====
section
/-! DEFINITION. The operations of the block: one constructor per row of spec/opcode_table.json (R50, R52),
and the typed fields of a persistence stream (R58, R104). -/

namespace Sys2Proof

/-- One operation. A constructor carries exactly the fields its operation uses (R49, R50): the
fields it ignores are no part of it. -/
inductive Instr where
  /-- `READ addr` (R92). -/
  | read (addr : BusAddr)
  /-- `WRITE addr, data` (R94). -/
  | write (addr : BusAddr) (data : Byte)
  /-- `RESET` (R97). -/
  | reset
  /-- `UNLOCK` (R98). -/
  | unlock
  /-- `SAVE`; its output stream is an operand beside the word (R104, R107). -/
  | save
  /-- `LOAD`; its input stream is an operand beside the word (R104, R109). -/
  | load
  /-- `QBANK seg`; the segment number is the word's `addr` field (R99). -/
  | qbank (seg : BitVec 16)
  /-- `QLOCK` (R100). -/
  | qlock
  /-- Reserved operation code 0x8 (R52). -/
  | reserved8
  /-- Reserved operation code 0x9 (R52). -/
  | reserved9
  /-- Reserved operation code 0xA (R52). -/
  | reservedA
  /-- Reserved operation code 0xB (R52). -/
  | reservedB
  /-- Reserved operation code 0xC (R52). -/
  | reservedC
  /-- Reserved operation code 0xD (R52). -/
  | reservedD
  /-- Reserved operation code 0xE (R52). -/
  | reservedE
  /-- Reserved operation code 0xF (R52). -/
  | reservedF
  deriving DecidableEq, Repr

/-- One typed field of a persistence stream (R104): `I n` or `B b`. -/
inductive Field where
  | int (n : Nat)
  | bool (b : Bool)
  deriving DecidableEq, Repr

end Sys2Proof
end

