-- ==== Sys2Proof/Config.lean ====
section
/-! DEFINITION. The configuration record of a scheme (R6, R7), the reference configurations (R9), and the free
values: constants with no body, of which nothing can be proved. -/

namespace Sys2Proof

/-- Backing store of a segment (R6 `SEG_KIND`). -/
inductive SegKind where
  | rom
  | ram
  deriving DecidableEq, Repr

/-- Where a hot range takes the bank number from (R7, R55). -/
inductive Source where
  | offsetMod
  | offsetRel
  | data
  deriving DecidableEq, Repr

/-- R6 `LOCK_POLICY`. -/
inductive LockPolicy where
  | none
  | selfLocking
  | extUnlockable
  deriving DecidableEq, Repr

/-- A hot-range descriptor (R7): the closed range `lo..hi` of local offsets, the segment whose bank
register it controls, and the source of the bank number. -/
structure HotRange where
  lo : Nat
  hi : Nat
  seg : Nat
  source : Source
  deriving DecidableEq, Repr

/-- The configuration record `cfg` (R6). No operation changes it. `image` lists the ROM bytes that
are supplied, `imageFree` says which free bytes stand for the others (log 5). The defaults are R6's: a
window of 4096 bytes, as many banks as the image holds, no segment write-protected at reset. -/
structure Cfg where
  mirrorMask : BitVec 16
  windowBase : BitVec 16
  windowSize : Nat := 4096
  bankSize : Nat
  segKind : List SegKind
  imageSize : Nat
  image : Memory
  imageFree : Nat
  bankCount : Nat := imageSize / bankSize
  ramBankCount : Nat
  hot : List HotRange
  lockPolicy : LockPolicy
  hotOnRead : Bool
  hasWp : Bool
  wpReset : List Bool := List.replicate (windowSize / bankSize) false
  contentId : String
  deriving DecidableEq, Repr

/-- `NSEG` (R6). -/
def Cfg.nseg (c : Cfg) : Nat := c.windowSize / c.bankSize

/-- `SEG_KIND[s]` (R6). -/
def Cfg.kindOf (c : Cfg) (seg : Nat) : SegKind := c.segKind.getD seg .rom

/-- The number of banks of one kind of store. -/
def Cfg.kindBanks (c : Cfg) : SegKind → Nat
  | .rom => c.bankCount
  | .ram => c.ramBankCount

/-- `bankCount(s)` (R13). -/
def Cfg.bankCountOf (c : Cfg) (seg : Nat) : Nat := c.kindBanks (c.kindOf seg)

/-- Free value: byte `i` of the ROM image number `image` where the configuration supplies none
(DESIGN CHOICE, log 5; safe). -/
opaque Config.imageByte (image : Nat) (i : Nat) : Byte

/-- Free value: byte `i` of the cartridge RAM as power-on number `draw` left it (R86, U3 `any value`;
DESIGN CHOICE, log 6; safe). -/
opaque Config.ramByte (draw : Nat) (i : Nat) : Byte

/-- Free value: what an output stream holds after draw number `draw`, a failed `SAVE` (R108, U16;
DESIGN CHOICE, log 12; safe). -/
opaque Config.failedSaveStream (draw : Nat) : List Field

/-- Free value: how many fields the failed `LOAD` of draw number `draw` consumed (R110; DESIGN CHOICE,
log 13; safe). -/
opaque Config.failedLoadConsumed (draw : Nat) : Nat

/-- Free value: `HOT_ON_READ` of the configuration that `State.reset` takes; R9 leaves it open
(DESIGN CHOICE, log 3; safe). -/
opaque Config.hotOnRead : Bool

/-- Free value: `CONTENT_ID` of the configuration that `State.reset` takes; no rule reads it (R6;
DESIGN CHOICE, log 3; safe). -/
opaque Config.contentId : String

/-- The TVBoy-style reference configuration (R9) with the bank count, `HOT_ON_READ`, the supplied
image bytes and the content identity left as arguments. -/
def tvboyRef (bankCount : Nat) (hotOnRead : Bool) (image : Memory) (contentId : String) : Cfg where
  mirrorMask := 0x1FFF
  windowBase := 0x1000
  windowSize := 4096
  bankSize := 4096
  segKind := [.rom]
  imageSize := 524288
  image := image
  imageFree := 0
  bankCount := bankCount
  ramBankCount := 0
  hot := [⟨0x800, 0x87F, 0, .offsetMod⟩]
  lockPolicy := .selfLocking
  hotOnRead := hotOnRead
  hasWp := false
  wpReset := [false]
  contentId := contentId

/-- `TVBOY_REF8` (R9). -/
def tvboyRef8 := tvboyRef 8

/-- `TVBOY_REF128` (R9). -/
def tvboyRef128 := tvboyRef 128

end Sys2Proof
end

