-- ==== Sys2Proof/WellFormed.lean ====
section
/-! DEFINITION. Well-formedness: the canonical form of a memory, R8's conditions on a configuration one by one,
and of an operation (R53: every value of every field is legal). -/

namespace Sys2Proof

/-- The canonical form of a memory: strictly rising indices. An unlisted index has no value, so no
entry can equal what an unlisted index reads as. -/
def Memory.wf (m : Memory) : Bool := decide (m.Pairwise fun a b => a.1 < b.1)

/-- Every listed index is below `n`. -/
def Memory.within (m : Memory) (n : Nat) : Bool := m.all fun c => decide (c.1 < n)

/-- R8 (1). -/
def Cfg.sizesOk (c : Cfg) : Bool :=
  decide (1 ≤ c.windowSize) && decide (1 ≤ c.bankSize) && decide (c.windowSize % c.bankSize = 0)

/-- R8 (2). -/
def Cfg.windowOk (c : Cfg) : Bool :=
  decide (c.windowBase.toNat + c.windowSize ≤ 65536)
    && decide (c.windowBase &&& c.mirrorMask = c.windowBase)

/-- R8 (3). -/
def Cfg.banksOk (c : Cfg) : Bool :=
  decide (1 ≤ c.bankCount) && decide (c.bankCount * c.bankSize ≤ c.imageSize)

/-- R8 (4). -/
def Cfg.imageOk (c : Cfg) : Bool :=
  c.segKind.any (· == .ram) || decide (c.windowSize ≤ c.imageSize)

/-- R8 (5). -/
def Cfg.ramOk (c : Cfg) : Bool :=
  !(c.segKind.any (· == .ram)) || decide (1 ≤ c.ramBankCount)

/-- R7: one hot range lies in the window and names a segment. -/
def HotRange.wf (c : Cfg) (h : HotRange) : Bool :=
  decide (h.lo ≤ h.hi) && decide (h.hi < c.windowSize) && decide (h.seg < c.nseg)

/-- R8 (6): every range satisfies R7, and no two share an offset. -/
def Cfg.hotOk (c : Cfg) : Bool :=
  c.hot.all (HotRange.wf c) && decide (c.hot.Pairwise fun a b => a.hi < b.lo ∨ b.hi < a.lo)

/-- R8 (7). -/
def Cfg.wpOk (c : Cfg) : Bool :=
  decide (c.wpReset.length = c.nseg) && (c.hasWp || c.wpReset.all (· == false))

/-- What R6's table says of its fields and R8 does not repeat (log 14): `SEG_KIND` has one entry per segment,
`image` has bytes at indices below `IMAGE_SIZE`, and `RAM_BANK_COUNT` is 0 when no segment is RAM. -/
def Cfg.shapeOk (c : Cfg) : Bool :=
  decide (c.segKind.length = c.nseg) && c.image.wf && c.image.within c.imageSize
    && (c.segKind.any (· == .ram) || decide (c.ramBankCount = 0))

/-- A well-formed configuration (R8). -/
def Cfg.wf (c : Cfg) : Bool :=
  c.sizesOk && c.windowOk && c.banksOk && c.imageOk && c.ramOk && c.hotOk && c.wpOk && c.shapeOk

/-- A well-formed operation: no value of `addr` or `data` is illegal (R53), and the widths are those
of the constructor's arguments, so every term is well-formed. -/
def Instr.wf : Instr → Bool
  | .read _ => true
  | .write _ _ => true
  | .reset => true
  | .unlock => true
  | .save => true
  | .load => true
  | .qbank _ => true
  | .qlock => true
  | .reserved8 => true
  | .reserved9 => true
  | .reservedA => true
  | .reservedB => true
  | .reservedC => true
  | .reservedD => true
  | .reservedE => true
  | .reservedF => true

end Sys2Proof
end

