-- ==== Sys2Proof/Machine/State.lean ====
section
/-! DEFINITION. The state of the block (R13), the inputs and the output of an operation (R5, R116), the reasons a
step can stop, and the state right after reset (R29). -/

namespace Sys2Proof.Machine

/-- The outcome of an operation (R116). -/
inductive Status where
  | ok
  | notHandled
  | configError
  | loadFailure
  | saveFailure
  | refused
  deriving DecidableEq, Repr

/-- The data result of an operation: none, a byte (R92, R95), a bank number (R99) or a boolean (R100). -/
inductive Result where
  | nothing
  | byte (b : Byte)
  | bank (n : Nat)
  | flag (b : Bool)
  deriving DecidableEq, Repr

/-- What an operation returns to its caller: outcome and data result (R11 `return`). -/
structure Response where
  status : Status
  result : Result
  deriving DecidableEq, Repr

/-- The inputs of one operation beside its word (R5, D1): the level of `SET_QUIRK` (R19), the input
stream of a `LOAD`, the output stream of a `SAVE`, and which of that `SAVE`'s fields, counted from 0,
the output stream refuses first, if any (R104; log 11). -/
structure Ports where
  setQuirk : Bool
  inStream : List Field
  outStream : List Field
  outRefuses : Option Nat
  deriving DecidableEq, Repr

/-- One operation as the host issues it: its transaction word and its other inputs (R5, R48). -/
structure Request where
  word : TWord
  ports : Ports
  deriving DecidableEq, Repr

/-- `BankState` as one unit (R12): what `LOAD` stages before it commits (R109, R110). -/
structure BankState where
  banks : List Nat
  wp : List Bool
  locked : Bool
  deriving DecidableEq, Repr

/-- Why the machine stops. -/
inductive Fault where
  /-- Raised by the data phase of `READ` and `WRITE` when the physical index lies outside the backing
  store. R36 says that it never does, and no state that meets `State.Inv` raises it: only a state that
  breaks the range invariant R15, which no run from a construction reaches, does. Safe (log 15). -/
  | outsideStore
  deriving DecidableEq, Repr

/-- Why an operation has no meaning. -/
inductive Refusal where
  /-- Raised by no arm of `exec`: every operation of the table has its meaning. Safe. -/
  | notModelled (mnemonic : String)
  deriving DecidableEq, Repr

/-- The state. `cfg` is the configuration (R6; constant, log 2). `configured` to `ram` are the state of
the block (R13). `pending`, `ports` and `response` are its inputs and its output (R5, R27; log 1).
`ramDraw` and `draws` are the model's own: which free values it reads (log 6, log 12). -/
structure State where
  cfg : Cfg
  configured : Bool
  currentBank : List Nat
  locked : Bool
  wp : List Bool
  quirk : Bool
  ram : Memory
  pending : List Request
  ports : Ports
  response : Response
  ramDraw : Nat
  draws : Nat
  deriving DecidableEq, Repr

/-- The state after construction with `TVBOY_REF8` (R9, R29, R90; log 3, 4, 8). -/
def State.reset : State where
  cfg := tvboyRef8 Config.hotOnRead [] Config.contentId
  configured := true
  currentBank := [0]
  locked := false
  wp := []
  quirk := true
  ram := []
  pending := []
  ports := ⟨true, [], [], none⟩
  response := ⟨.ok, .nothing⟩
  ramDraw := 0
  draws := 0

end Sys2Proof.Machine
end

