-- ==== Sys2Proof/Machine/Flags.lean ====
section
/-! DEFINITION. The flags: the effective lock policy (R20), when a switch sets `locked` (R74, R77, R78), when
`UNLOCK` clears it (R98), and the write-protect flag of a segment (R18). -/

namespace Sys2Proof.Machine

/-- `effPolicy` (R20). -/
def State.effPolicy (s : State) : LockPolicy := if s.quirk then s.cfg.lockPolicy else .none

/-- Whether a switch that is performed, to bank `t`, sets `locked` (R71, R74, R77, R78). -/
def setsLock (p : LockPolicy) (t : Nat) : Bool :=
  match p with
  | .none => false
  | .selfLocking => decide (t ≠ 0)
  | .extUnlockable => decide (t ≠ 0)

/-- `locked` after `UNLOCK` (R98). -/
def lockAfterUnlock (p : LockPolicy) (locked : Bool) : Bool :=
  match p with
  | .none => locked
  | .selfLocking => locked
  | .extUnlockable => false

/-- `wp[s]` as every rule reads it: false when the scheme has no such flags (R18). -/
def State.wpAt (s : State) (seg : Nat) : Bool := s.cfg.hasWp && s.wp.getD seg false

/-- The write-protect registers after construction and `RESET` (R18, R29): `WP_RESET[s]`, and none when the
scheme has no such flags. -/
def wpAtReset (c : Cfg) : List Bool :=
  if c.hasWp then (List.range c.nseg).map fun seg => c.wpReset.getD seg false else []

end Sys2Proof.Machine
end

