-- ==== Sys2Proof/Machine/Operands.lean ====
section
/-! DEFINITION. The operand forms: a bus address (R61), a hot offset (R68, R69) with its bank number (R55, R70), a
segment (R34, R99), and the fields of a stream (R105, R109). -/

namespace Sys2Proof.Machine

/-- `Decode(a)` (R61): the local offset, or none for `NotHandled`. -/
def decodeAddr (c : Cfg) (a : BusAddr) : Option Nat :=
  let f := (a &&& c.mirrorMask).toNat
  if f < c.windowBase.toNat ∨ c.windowBase.toNat + c.windowSize ≤ f then none
  else some ((f - c.windowBase.toNat) % c.windowSize)

/-- The segment of a local offset (R34). -/
def segOf (c : Cfg) (off : Nat) : Nat := off / c.bankSize

/-- The position of a local offset inside its segment (R34). -/
def segOffset (c : Cfg) (off : Nat) : Nat := off % c.bankSize

/-- The segment a `QBANK` names (R99): reduced `mod NSEG`. -/
def querySeg (c : Cfg) (seg : BitVec 16) : Nat := seg.toNat % c.nseg

/-- `HotLookup(off)` (R68). -/
def hotLookup (c : Cfg) (off : Nat) : Option HotRange :=
  c.hot.find? fun h => decide (h.lo ≤ off) && decide (off ≤ h.hi)

/-- Whether an access in the hot range `h` triggers the selector (R69). -/
def triggers (c : Cfg) (h : HotRange) (isWrite : Bool) : Bool :=
  isWrite || (c.hotOnRead && decide (h.source ≠ .data))

/-- The hot range that an access triggers, if any (R68, R69). -/
def triggered (c : Cfg) (off : Nat) (isWrite : Bool) : Option HotRange :=
  (hotLookup c off).filter fun h => triggers c h isWrite

/-- The raw bank number (R55). -/
def rawBank (h : HotRange) (off : Nat) (v : Byte) : Nat :=
  match h.source with
  | .offsetMod => off
  | .offsetRel => off - h.lo
  | .data => v.toNat

/-- `Target(h, off, isWrite, v)` (R56, R70). -/
def target (c : Cfg) (h : HotRange) (off : Nat) (v : Byte) : Nat :=
  rawBank h off v % c.bankCountOf h.seg

/-- The next `n` fields of a stream, each an integer, and the fields after them (R109). -/
def readInts : Nat → List Field → Option (List Nat × List Field)
  | 0, fs => some ([], fs)
  | n + 1, .int k :: fs => (readInts n fs).map fun r => (k :: r.1, r.2)
  | _ + 1, _ => none

/-- The next `n` fields of a stream, each a boolean, and the fields after them (R109). -/
def readBools : Nat → List Field → Option (List Bool × List Field)
  | 0, fs => some ([], fs)
  | n + 1, .bool b :: fs => (readBools n fs).map fun r => (b :: r.1, r.2)
  | _ + 1, _ => none

/-- The staging half of `LOAD` (R109): the fields of R105 in order, and the fields left unread (R112);
none at the first missing or wrongly typed field. -/
def stage (c : Cfg) (fs : List Field) : Option (BankState × List Field) :=
  match readInts c.nseg fs with
  | none => none
  | some (banks, fs1) =>
    match (if c.hasWp then readBools c.nseg fs1 else some ([], fs1)) with
    | some (wp, .bool l :: rest) => some (⟨banks, wp, l⟩, rest)
    | _ => none

/-- A loaded bank number is reduced `mod bankCount(s)` (R111). -/
def reduceBanks (c : Cfg) (banks : List Nat) : List Nat :=
  banks.mapIdx fun seg n => n % c.bankCountOf seg

end Sys2Proof.Machine
end

