-- ==== Sys2Proof/Machine/Ops.lean ====
section
/-! DEFINITION. The named operations over memory and registers: one byte of a memory, the register updates, ending an
operation with an outcome (R116, R128: what stands here in the place of taking an exception, and there is no
return from one, R129), construction (R90), the selector (R71), the banked memory (R81 to R83), the window
snapshot (R87, R88) and the persistence port (R105 to R110). -/

namespace Sys2Proof.Machine

/-- The listed byte at index `i`, if any. -/
def readMem : Memory → Nat → Option Byte
  | [], _ => none
  | c :: m, i => if c.1 = i then some c.2 else readMem m i

/-- `m` with byte `v` at index `i`; keeps the indices strictly rising. -/
def writeMem : Memory → Nat → Byte → Memory
  | [], i, v => [(i, v)]
  | c :: m, i, v =>
    if i < c.1 then (i, v) :: c :: m
    else if c.1 = i then (i, v) :: m
    else c :: writeMem m i v

/-- `currentBank[s]` (R14). -/
def State.bankAt (s : State) (seg : Nat) : Nat := s.currentBank.getD seg 0

/-- `currentBank[s] <- b`. -/
def State.setBank (s : State) (seg b : Nat) : State :=
  { s with currentBank := s.currentBank.set seg b }

/-- All bank registers at once. -/
def State.setBanks (s : State) (banks : List Nat) : State := { s with currentBank := banks }

/-- `locked <- b`. -/
def State.setLocked (s : State) (b : Bool) : State := { s with locked := b }

/-- All write-protect registers at once. -/
def State.setWp (s : State) (wp : List Bool) : State := { s with wp := wp }

/-- `quirk <- b`. -/
def State.setQuirk (s : State) (b : Bool) : State := { s with quirk := b }

/-- `MemWrite(RAM, i, 1, v)` (R11). -/
def State.writeRam (s : State) (i : Nat) (v : Byte) : State := { s with ram := writeMem s.ram i v }

/-- What is left of the input stream. -/
def State.setInStream (s : State) (fs : List Field) : State :=
  { s with ports := { s.ports with inStream := fs } }

/-- What the output stream holds. -/
def State.setOutStream (s : State) (fs : List Field) : State :=
  { s with ports := { s.ports with outStream := fs } }

/-- The next free value is another one. -/
def State.nextDraw (s : State) : State := { s with draws := s.draws + 1 }

/-- The next operation: its request leaves the list of pending ones and its inputs stand at the ports. -/
def State.issue (s : State) (r : Request) (rest : List Request) : State :=
  { s with pending := rest, ports := r.ports }

/-- The end of an operation with outcome and data result (R11, R116). -/
def State.respond (s : State) (o : Status) (d : Result) : State := { s with response := ⟨o, d⟩ }

/-- The end of an operation with outcome `OK`. -/
def State.succeed (s : State) (d : Result) : State := s.respond .ok d

/-- `raise o` (R11, R128): the outcome is returned without data, nothing is saved, no mode changes and
no control goes anywhere; the state is what it was. -/
def State.raise (s : State) (o : Status) : State := s.respond o .nothing

/-- Every operation but a reserved one first checks `configured` (R22, R127). -/
def whenConfigured (s : State) (k : Host.Outcome State Fault Refusal) :
    Host.Outcome State Fault Refusal :=
  if s.configured then k else .next (s.raise .configError)

/-- The reset values of R29, which construction and `RESET` share (R134); `ram` is not touched (R136). -/
def State.applyReset (s : State) (setQuirk : Bool) : State :=
  (((s.setBanks (List.replicate s.cfg.nseg 0)).setLocked false).setWp (wpAtReset s.cfg)).setQuirk setQuirk

/-- `Construct(cfg, SET_QUIRK)` (R90), for a block whose power-on RAM contents are draw `ramDraw`. A failed
construction leaves `configured` false (R22) and its registers at values no operation shows (log 7). -/
def State.construct (c : Cfg) (setQuirk : Bool) (ramDraw : Nat) : State :=
  let s : State :=
    { cfg := c, configured := c.wf, currentBank := [], locked := false, wp := [], quirk := setQuirk,
      ram := [], pending := [], ports := ⟨setQuirk, [], [], none⟩, response := ⟨.ok, .nothing⟩,
      ramDraw := ramDraw, draws := 0 }
  if c.wf then (s.applyReset setQuirk).succeed .nothing else s.raise .configError

/-- The switch of segment `seg` to bank `t` (R71 from the lock test on, R72, R73, R74). -/
def switchBank (s : State) (seg t : Nat) : State :=
  if s.locked then s
  else if t = s.bankAt seg then s
  else if setsLock s.effPolicy t then (s.setBank seg t).setLocked true
  else s.setBank seg t

/-- `Select(off, isWrite, v)` (R71). -/
def select (s : State) (off : Nat) (isWrite : Bool) (v : Byte) : State :=
  match triggered s.cfg off isWrite with
  | none => s
  | some h => switchBank s h.seg (target s.cfg h off v)

/-- The kind of store a local offset resolves to (R81). -/
def kindAt (c : Cfg) (off : Nat) : SegKind := c.kindOf (segOf c off)

/-- The physical index a local offset resolves to (R35, R81). -/
def phys (s : State) (off : Nat) : Nat :=
  s.bankAt (segOf s.cfg off) * s.cfg.bankSize + segOffset s.cfg off

/-- `Resolve(off)` (R81): kind, index and segment. -/
def resolve (s : State) (off : Nat) : SegKind × Nat × Nat :=
  (kindAt s.cfg off, phys s off, segOf s.cfg off)

/-- How many bytes a store has (R30). -/
def storeSize (c : Cfg) : SegKind → Nat
  | .rom => c.imageSize
  | .ram => c.ramBankCount * c.bankSize

/-- Byte `i` of `image` (R11): the supplied byte, or a free one (log 5). -/
def imageAt (c : Cfg) (i : Nat) : Byte := (readMem c.image i).getD (Config.imageByte c.imageFree i)

/-- Byte `i` of `ram` (R11): the byte last stored, or the free power-on byte (R86; log 6). -/
def ramAt (s : State) (i : Nat) : Byte := (readMem s.ram i).getD (Config.ramByte s.ramDraw i)

/-- `MemRead(space, i, 1)` (R11). -/
def byteAt (s : State) : SegKind → Nat → Byte
  | .rom, i => imageAt s.cfg i
  | .ram, i => ramAt s i

/-- `Load8(off)` (R82); none outside the store (R36 says: never; log 15). -/
def load8 (s : State) (off : Nat) : Option Byte :=
  match resolve s off with
  | (k, i, _) => if i < storeSize s.cfg k then some (byteAt s k i) else none

/-- The RAM index that a store at local offset `off` writes (R83), if it writes one: the segment is RAM and
its write-protect flag is clear (R38, R84, R85). -/
def storeIndex (s : State) (off : Nat) : Option Nat :=
  match resolve s off with
  | (.rom, _, _) => none
  | (.ram, i, seg) => if s.wpAt seg then none else some i

/-- `Store8(off, v)` (R83); none outside the store (R36 says: never; log 15). -/
def store8 (s : State) (off : Nat) (v : Byte) : Option State :=
  match storeIndex s off with
  | none => some s
  | some i => if i < storeSize s.cfg .ram then some (s.writeRam i v) else none

/-- The end of an access: `OK` with the byte now at the location (R92, R95). -/
def answerByte (s : State) (off : Nat) : Host.Outcome State Fault Refusal :=
  match load8 s off with
  | some b => .next (s.succeed (.byte b))
  | none => .fault .outsideStore

/-- `snapshot[s]` (R87): bank index and base. Of an unconfigured block it shows the values of log 7 (DESIGN CHOICE,
log 18). -/
def snapshot (s : State) (seg : Nat) : Nat × Nat := (s.bankAt seg, s.bankAt seg * s.cfg.bankSize)

/-- The fast path (R88, R145): decode once, compare against the hot range, index the store through the snapshot.
None where the access would trigger or is not handled: there the issuer must issue a `READ`. None on an
unconfigured block too, of whose fast path the spec says nothing (DESIGN CHOICE, log 18; safe). -/
def fastRead (s : State) (a : BusAddr) : Option Byte :=
  if s.configured then
    match decodeAddr s.cfg a with
    | none => none
    | some off =>
      match triggered s.cfg off false with
      | some _ => none
      | none => some (byteAt s (kindAt s.cfg off) ((snapshot s (segOf s.cfg off)).2 + segOffset s.cfg off))
  else none

/-- The field list of R105, with the values now in the registers. -/
def fieldList (s : State) : List Field :=
  ((List.range s.cfg.nseg).map fun seg => Field.int (s.bankAt seg))
    ++ (if s.cfg.hasWp then (List.range s.cfg.nseg).map fun seg => Field.bool (s.wpAt seg) else [])
    ++ [Field.bool s.locked]

/-- The output stream after all of `fs` was appended; none when it refuses one of them (R107). -/
def appendAll (p : Ports) (fs : List Field) : Option (List Field) :=
  match p.outRefuses with
  | none => some (p.outStream ++ fs)
  | some k => if k < fs.length then none else some (p.outStream ++ fs)

/-- The commit half of `LOAD` (R109, R111): all of `BankState`. -/
def State.commit (s : State) (b : BankState) : State :=
  ((s.setBanks (reduceBanks s.cfg b.banks)).setWp (if s.cfg.hasWp then b.wp else s.wp)).setLocked b.locked

end Sys2Proof.Machine
end

