-- ==== Sys2Proof/Machine/Bus.lean ====
section
/-! DEFINITION. The bus operations `READ` (R92) and `WRITE` (R94): the three stages of R91 in order. -/

namespace Sys2Proof.Machine

/-- `READ addr` (R92). -/
def execRead (addr : BusAddr) (s : State) : Host.Outcome State Fault Refusal :=
  whenConfigured s <|
    match decodeAddr s.cfg addr with
    | none => .next (s.raise .notHandled)
    | some off => answerByte (select s off false 0) off

/-- `WRITE addr, data` (R94, R95). -/
def execWrite (addr : BusAddr) (data : Byte) (s : State) : Host.Outcome State Fault Refusal :=
  whenConfigured s <|
    match decodeAddr s.cfg addr with
    | none => .next (s.raise .notHandled)
    | some off =>
      match store8 (select s off true data) off data with
      | none => .fault .outsideStore
      | some s' => answerByte s' off

end Sys2Proof.Machine
end

