-- ==== Sys2Proof/Machine/Control.lean ====
section
/-! DEFINITION. The control operations `RESET` (R97) and `UNLOCK` (R98). -/

namespace Sys2Proof.Machine

/-- `RESET` (R97): samples the input `SET_QUIRK`. -/
def execReset (s : State) : Host.Outcome State Fault Refusal :=
  whenConfigured s <| .next ((s.applyReset s.ports.setQuirk).succeed .nothing)

/-- `UNLOCK` (R98). -/
def execUnlock (s : State) : Host.Outcome State Fault Refusal :=
  whenConfigured s <| .next ((s.setLocked (lockAfterUnlock s.effPolicy s.locked)).succeed .nothing)

end Sys2Proof.Machine
end

