-- ==== Sys2Proof/Machine/Introspection.lean ====
section
/-! DEFINITION. The introspection operations `QBANK` (R99) and `QLOCK` (R100). -/

namespace Sys2Proof.Machine

/-- `QBANK seg` (R99). -/
def execQbank (seg : BitVec 16) (s : State) : Host.Outcome State Fault Refusal :=
  whenConfigured s <| .next (s.succeed (.bank (s.bankAt (querySeg s.cfg seg))))

/-- `QLOCK` (R100). -/
def execQlock (s : State) : Host.Outcome State Fault Refusal :=
  whenConfigured s <| .next (s.succeed (.flag s.locked))

end Sys2Proof.Machine
end

