-- ==== Sys2Proof/Machine/Persistence.lean ====
section
/-! DEFINITION. The persistence operations `SAVE` (R107, R108) and `LOAD` (R109 to R113). -/

namespace Sys2Proof.Machine

/-- `SAVE` (R107). After `SAVE_FAILURE` the block is what it was and the output stream holds a free value
(R108; log 12). -/
def execSave (s : State) : Host.Outcome State Fault Refusal :=
  whenConfigured s <|
    match appendAll s.ports (fieldList s) with
    | some out => .next ((s.setOutStream out).succeed .nothing)
    | none => .next (((s.setOutStream (Config.failedSaveStream s.draws)).nextDraw).raise .saveFailure)

/-- `LOAD` (R109). After `LOAD_FAILURE` the block is what it was and a free number of fields has been consumed
(R110; log 13). -/
def execLoad (s : State) : Host.Outcome State Fault Refusal :=
  whenConfigured s <|
    match stage s.cfg s.ports.inStream with
    | some (b, rest) => .next (((s.commit b).setInStream rest).succeed .nothing)
    | none =>
      .next (((s.setInStream (s.ports.inStream.drop (Config.failedLoadConsumed s.draws))).nextDraw).raise
        .loadFailure)

end Sys2Proof.Machine
end

