-- ==== Sys2Proof/Machine/Reserved.lean ====
section
/-! DEFINITION. The reserved words (R52, R124): outcome `REFUSED`, nothing changes, and the check stands before that of
`configured` (R127). One definition per operation code, over one shared operation. -/

namespace Sys2Proof.Machine

/-- A reserved word ends with `REFUSED` (R52): a next state, since the block goes on (R129). -/
def refuseWord (s : State) : Host.Outcome State Fault Refusal := .next (s.raise .refused)

/-- Reserved operation code 0x8 (R52). -/
def execReserved8 (s : State) : Host.Outcome State Fault Refusal := refuseWord s

/-- Reserved operation code 0x9 (R52). -/
def execReserved9 (s : State) : Host.Outcome State Fault Refusal := refuseWord s

/-- Reserved operation code 0xA (R52). -/
def execReservedA (s : State) : Host.Outcome State Fault Refusal := refuseWord s

/-- Reserved operation code 0xB (R52). -/
def execReservedB (s : State) : Host.Outcome State Fault Refusal := refuseWord s

/-- Reserved operation code 0xC (R52). -/
def execReservedC (s : State) : Host.Outcome State Fault Refusal := refuseWord s

/-- Reserved operation code 0xD (R52). -/
def execReservedD (s : State) : Host.Outcome State Fault Refusal := refuseWord s

/-- Reserved operation code 0xE (R52). -/
def execReservedE (s : State) : Host.Outcome State Fault Refusal := refuseWord s

/-- Reserved operation code 0xF (R52). -/
def execReservedF (s : State) : Host.Outcome State Fault Refusal := refuseWord s

end Sys2Proof.Machine
end

