-- ==== Sys2Proof/Decode.lean ====
section
/-! DEFINITION. The transaction word (R48 to R52): the decoder, total on every 28-bit word (R51) and rejecting by
name a number that is no 28-bit word, and the encoder, which gives the canonical word (R49). -/

namespace Sys2Proof

/-- Field `op`, bits 27..24 (R48). -/
def opField (w : TWord) : BitVec 4 := w.extractLsb' 24 4

/-- Field `addr`, bits 23..8 (R48). -/
def addrField (w : TWord) : BitVec 16 := w.extractLsb' 8 16

/-- Field `data`, bits 7..0 (R48). -/
def dataField (w : TWord) : Byte := w.extractLsb' 0 8

/-- The operation a word spells (R50, R51, R52). `op` has four bits, so the last line is `0xF` alone. -/
def decode (w : TWord) : Instr :=
  match (opField w).toNat with
  | 0x0 => .read (addrField w)
  | 0x1 => .write (addrField w) (dataField w)
  | 0x2 => .reset
  | 0x3 => .unlock
  | 0x4 => .save
  | 0x5 => .load
  | 0x6 => .qbank (addrField w)
  | 0x7 => .qlock
  | 0x8 => .reserved8
  | 0x9 => .reserved9
  | 0xA => .reservedA
  | 0xB => .reservedB
  | 0xC => .reservedC
  | 0xD => .reservedD
  | 0xE => .reservedE
  | _ => .reservedF

/-- Why a number is no transaction word. -/
inductive DecodeError where
  /-- It needs more than 28 bits (R48: there is one length). -/
  | widerThanAWord
  deriving DecidableEq, Repr

/-- Decoding a number: the word it is, or the reason it is none (log 9). -/
def decodeNat (n : Nat) : Except DecodeError Instr :=
  if n < 2 ^ 28 then .ok (decode (BitVec.ofNat 28 n)) else .error .widerThanAWord

/-- What the decoder reads from an operation whose bits are `w`, numbered as the opcode table numbers
them; bits from `nbits` up are 0. -/
def decodeTableWord (nbits w : Nat) : Option Instr :=
  match decodeNat (w % 2 ^ nbits) with
  | .ok i => some i
  | .error _ => none

/-- The operation code of an operation (R50, R52). -/
def Instr.op : Instr → BitVec 4
  | .read _ => 0x0
  | .write _ _ => 0x1
  | .reset => 0x2
  | .unlock => 0x3
  | .save => 0x4
  | .load => 0x5
  | .qbank _ => 0x6
  | .qlock => 0x7
  | .reserved8 => 0x8
  | .reserved9 => 0x9
  | .reservedA => 0xA
  | .reservedB => 0xB
  | .reservedC => 0xC
  | .reservedD => 0xD
  | .reservedE => 0xE
  | .reservedF => 0xF

/-- The `addr` field of the canonical word (R48, R49). -/
def Instr.addrOperand : Instr → BitVec 16
  | .read a => a
  | .write a _ => a
  | .qbank seg => seg
  | _ => 0

/-- The `data` field of the canonical word (R48, R49). -/
def Instr.dataOperand : Instr → Byte
  | .write _ v => v
  | _ => 0

/-- The word with the given fields (R48): `op ++ addr ++ data`. -/
def packWord (op : BitVec 4) (addr : BitVec 16) (data : Byte) : TWord := op ++ addr ++ data

/-- The canonical word of an operation (R49, R59): zeros in the fields it ignores. -/
def encode (i : Instr) : TWord := packWord i.op i.addrOperand i.dataOperand

end Sys2Proof
end

