-- ==== Sys2Proof/Machine/Fetch.lean ====
section
/-! DEFINITION. How the next operation reaches the block: the first pending request (R5, R27). -/

namespace Sys2Proof.Machine

/-- The operation that the first pending request spells, and the state in which it runs: the request is no
longer pending and its inputs stand at the ports. None when the host has issued nothing. -/
def fetch (s : State) : Option (Instr × State) :=
  match s.pending with
  | [] => none
  | r :: rest => some (decode r.word, s.issue r rest)

/-- `s` with the word `w` issued as the next operation, with the inputs that stand at the ports (log 8). -/
def issueWord (s : State) (w : TWord) : State :=
  { s with pending := ⟨w, s.ports⟩ :: s.pending }

end Sys2Proof.Machine
end

