-- ==== Sys2Proof/Machine/Step.lean ====
section
/-! DEFINITION. One step: the next pending operation, decoded and executed (R5, R51). -/

namespace Sys2Proof.Machine

/-- One step executes the next pending operation (R5, R43). With none pending the block is idle: nothing
happens (R24; log 10). -/
def step (s : State) : Host.Outcome State Fault Refusal :=
  match fetch s with
  | none => .next s
  | some (i, s') => exec i s'

/-- `s` with the operation whose bits are `w` (bits from `nbits` up are 0) issued as the next one. -/
def State.withFetchWord (s : State) (nbits w : Nat) : State := issueWord s (BitVec.ofNat 28 (w % 2 ^ nbits))

end Sys2Proof.Machine
end

