-- ==== Sys2Proof/Machine/Trace.lean ====
section
/-! DEFINITION. The trace notation (R59) and the pseudo-operation `SEL` (R60): what request a line stands for, and how
a line and a response are written. The pseudo-operation `POWERON` is `State.construct`. -/

namespace Sys2Proof.Machine

/-- One line of a trace (R59, R60). -/
inductive Line where
  | rd (a : BusAddr)
  | wr (a : BusAddr) (v : Byte)
  | reset
  | unlock
  | save
  | load (fields : List Field)
  | qbank (seg : BitVec 16)
  | qlock
  | sel (b : Nat)
  deriving DecidableEq, Repr

/-- The expansion of `SEL b` (R60): one `WRITE` through the first hot range; none where R60 gives none. -/
def selInstr (c : Cfg) (b : Nat) : Option Instr :=
  match c.hot with
  | [] => none
  | h :: _ =>
    let at_ (off : Nat) : BusAddr := BitVec.ofNat 16 (c.windowBase.toNat + off)
    match h.source with
    | .offsetRel => if b ≤ h.hi - h.lo then some (.write (at_ (h.lo + b)) 0) else none
    | .offsetMod =>
      ((List.range' h.lo (h.hi + 1 - h.lo)).find? fun o => decide (o % c.bankCountOf h.seg = b)).map
        fun o => .write (at_ o) 0
    | .data => if b < 256 then some (.write (at_ h.lo) (BitVec.ofNat 8 b)) else none

/-- The operation a line stands for (R59, R60). -/
def Line.instr (c : Cfg) : Line → Option Instr
  | .rd a => some (.read a)
  | .wr a v => some (.write a v)
  | .reset => some .reset
  | .unlock => some .unlock
  | .save => some .save
  | .load _ => some .load
  | .qbank seg => some (.qbank seg)
  | .qlock => some .qlock
  | .sel b => selInstr c b

/-- The stream a line supplies (R59: `LOAD` from the listed fields). -/
def Line.stream : Line → List Field
  | .load fields => fields
  | .rd _ => []
  | .wr _ _ => []
  | .reset => []
  | .unlock => []
  | .save => []
  | .qbank _ => []
  | .qlock => []
  | .sel _ => []

/-- The request a line stands for, with `SET_QUIRK` at the given level and a fresh output stream that
refuses nothing (R59). -/
def Line.request (c : Cfg) (setQuirk : Bool) (l : Line) : Option Request :=
  (l.instr c).map fun i => ⟨encode i, ⟨setQuirk, l.stream, [], none⟩⟩

/-- One upper-case hexadecimal digit. -/
def hexDigit (n : Nat) : Char :=
  if n < 10 then Char.ofNat (48 + n) else Char.ofNat (55 + n)

/-- `k` hexadecimal digits of `n`, most significant first. -/
def hexDigits : Nat → Nat → List Char
  | 0, _ => []
  | k + 1, n => hexDigits k (n / 16) ++ [hexDigit (n % 16)]

/-- `$` and `k` hexadecimal digits (R59). -/
def hexText (k n : Nat) : String := String.ofList ('$' :: hexDigits k n)

/-- A boolean as a trace writes it. -/
def boolText (b : Bool) : String := if b then "true" else "false"

/-- A field as a trace writes it (R59). -/
def fieldText : Field → String
  | .int n => "I" ++ toString n
  | .bool b => "B" ++ boolText b

/-- A line as R59 writes it. -/
def Line.text : Line → String
  | .rd a => "RD " ++ hexText 4 a.toNat
  | .wr a v => "WR " ++ hexText 4 a.toNat ++ ",#" ++ hexText 2 v.toNat
  | .reset => "RESET"
  | .unlock => "UNLOCK"
  | .save => "SAVE"
  | .load fields => String.join ("LOAD" :: fields.map fun f => " " ++ fieldText f)
  | .qbank seg => "QBANK " ++ toString seg.toNat
  | .qlock => "QLOCK"
  | .sel b => "SEL " ++ toString b

/-- The numeric code of an outcome (R116). -/
def Status.code : Status → Nat
  | .ok => 0
  | .notHandled => 1
  | .configError => 2
  | .loadFailure => 3
  | .saveFailure => 4
  | .refused => 5

/-- An outcome as a trace writes it (R116). -/
def Status.text : Status → String
  | .ok => "OK"
  | .notHandled => "NOT_HANDLED"
  | .configError => "CONFIG_ERROR"
  | .loadFailure => "LOAD_FAILURE"
  | .saveFailure => "SAVE_FAILURE"
  | .refused => "REFUSED"

/-- A response as R59 writes it after the arrow. -/
def Response.text (r : Response) : String :=
  match r.result with
  | .nothing => r.status.text
  | .byte b => r.status.text ++ " " ++ hexText 2 b.toNat
  | .bank n => r.status.text ++ " " ++ toString n
  | .flag b => r.status.text ++ " " ++ boolText b

end Sys2Proof.Machine
end

