-- ==== Sys2Proof/Safety.lean ====
section
/-! DEFINITION. What counts as a safe run, in the terms the statements use: the invariant of the state (R15, R36), the
ports and their rights (R130), the states a self-locking block reaches over the bus (R25), and a run. -/

namespace Sys2Proof.Machine

/-- The invariant of a block: the configuration of a configured block is well-formed (R22, R90), it has one
bank register a segment, in range (R14, R15), its write-protect registers are those of R18, and its RAM is
a canonical memory inside the RAM array (R21). -/
def State.Inv (s : State) : Prop :=
  s.ram.wf = true ∧
  (s.configured = true →
    s.cfg.wf = true ∧
    s.currentBank.length = s.cfg.nseg ∧
    s.wp.length = (if s.cfg.hasWp then s.cfg.nseg else 0) ∧
    (∀ seg < s.cfg.nseg, s.bankAt seg < s.cfg.bankCountOf seg) ∧
    s.ram.within (s.cfg.ramBankCount * s.cfg.bankSize) = true)

/-- The four ports (R130). -/
inductive Port where
  | bus
  | control
  | persistence
  | introspection
  deriving DecidableEq, Repr

/-- The port that carries an operation (R130); a reserved word is no operation of any port. -/
def Instr.port : Instr → Option Port
  | .read _ => some .bus
  | .write _ _ => some .bus
  | .reset => some .control
  | .unlock => some .control
  | .save => some .persistence
  | .load => some .persistence
  | .qbank _ => some .introspection
  | .qlock => some .introspection
  | .reserved8 => none
  | .reserved9 => none
  | .reservedA => none
  | .reservedB => none
  | .reservedC => none
  | .reservedD => none
  | .reservedE => none
  | .reservedF => none

/-- Local offset `off` lies in the hot range `h` of the configuration (R68). -/
def HotAt (c : Cfg) (h : HotRange) (off : Nat) : Prop := h ∈ c.hot ∧ h.lo ≤ off ∧ off ≤ h.hi

/-- Every pending operation is a `READ` or a `WRITE`. -/
def OnlyBus (s : State) : Prop := ∀ r ∈ s.pending, Instr.port (decode r.word) = some .bus

/-- Every pending operation is one of those that cannot unlock (R17): `READ`, `WRITE`, `QBANK`, `QLOCK`,
`SAVE`. -/
def NoUnlocker (s : State) : Prop :=
  ∀ r ∈ s.pending,
    Instr.port (decode r.word) = some .bus ∨ Instr.port (decode r.word) = some .introspection ∨
      decode r.word = .save

/-- The states that a self-locking block of one segment reaches over the bus (R25): bank 0 and unlocked, or
another bank and locked. -/
def SelfLockShape (s : State) : Prop :=
  s.effPolicy = .selfLocking ∧ s.cfg.nseg = 1 ∧ (s.locked = true ↔ s.bankAt 0 ≠ 0)

/-- The state of the block alone (R13), without the inputs and the output of an operation and without the
model's own counters. -/
def SameBlock (s t : State) : Prop :=
  t.cfg = s.cfg ∧ t.configured = s.configured ∧ t.currentBank = s.currentBank ∧ t.locked = s.locked ∧
  t.wp = s.wp ∧ t.quirk = s.quirk ∧ t.ram = s.ram ∧ t.ramDraw = s.ramDraw

end Sys2Proof.Machine
end

