-- ==== Sys2Proof/Certificates/Slice0/Obligations.lean ====
section
/-! DEFINITION. The statements for the provers. Each docstring names the rule of spec/ it formalises. A statement about every
state is a statement about every configuration too, since the state carries it. -/

open Sys2Proof Sys2Proof.Machine

/-! Encoding -/

/-- The words that R59 and 95_test_vectors.md write out decode to the operations they stand for. The words are the
spec's own decision D2, D4. The words are the spec's own decision D2, D4. -/
def Obligations.SpecWordsDecode : Prop :=
  decode 0x1180300 = .write 0x1803 0x00 ∧
  decode 0x0101000 = .read 0x1010 ∧
  decode 0x01803FF = .read 0x1803 ∧
  decode 0x117FA0D = .write 0x17FA 0x0D ∧
  decode 0x2000000 = .reset ∧
  decode 0x2ABCDEF = .reset ∧
  decode 0x3000000 = .unlock ∧
  decode 0x4000000 = .save ∧
  decode 0x5000000 = .load ∧
  decode 0x6000200 = .qbank 2 ∧
  decode 0x7000000 = .qlock ∧
  decode 0x8000000 = .reserved8 ∧
  decode 0x9000000 = .reserved9 ∧
  decode 0xF180300 = .reservedF

/-- Decoding the canonical word of an operation gives the operation back, with every operand (R48 to R51). The words
are the spec's own decision D2. The words are the spec's own decision D2. -/
def Obligations.DecodeEncodeRoundTrip : Prop :=
  ∀ i : Instr, i.wf = true → decode (encode i) = i

/-- R49: two words with one operation code that agree in the fields the operation uses are one operation, and the
canonical word has zeros in the fields it does not use. The words are the spec's own decision D2, D3. -/
def Obligations.IgnoredFieldsSelectNothing : Prop :=
  (∀ w w' : TWord, opField w = opField w' →
    ((opField w = 0x0 ∨ opField w = 0x1 ∨ opField w = 0x6) → addrField w = addrField w') →
    (opField w = 0x1 → dataField w = dataField w') →
    decode w = decode w') ∧
  (∀ w : TWord, encode (decode w) =
    w &&& (if opField w = 0x1 then 0xFFFFFFF
      else if opField w = 0x0 ∨ opField w = 0x6 then 0xFFFFF00 else 0xF000000))

/-- A step executes the operation that the first pending word spells, with that request's inputs on the ports (R5,
R51). The idle step, with nothing pending, is the model's own choice (log 10). -/
def Obligations.StepExecutesTheNextOperation : Prop :=
  (∀ (s : State) (r : Request) (rest : List Request), s.pending = r :: rest →
    step s = exec (decode r.word) { s with pending := rest, ports := r.ports }) ∧
  (∀ s : State, s.pending = [] → step s = .next s)

/-! Reserved words, the unconfigured block, construction -/

/-- R52, R124: a word with `op` in 0x8..0xF is a reserved operation, which ends with `REFUSED` and changes nothing,
whether the block is configured or not. The reserved codes are the spec's own decision D3; that such a word is an
operation that ends in a next state is the model's reading (log 9, DEDUCED). -/
def Obligations.ReservedWordsAreRefused : Prop :=
  (∀ w : TWord, 8 ≤ (opField w).toNat →
    decode w ∈ [Instr.reserved8, .reserved9, .reservedA, .reservedB, .reservedC, .reservedD, .reservedE, .reservedF]) ∧
  (∀ i ∈ [Instr.reserved8, .reserved9, .reservedA, .reservedB, .reservedC, .reservedD, .reservedE, .reservedF],
    ∀ s : State, exec i s = .next { s with response := ⟨.refused, .nothing⟩ })

/-- R22, R129: `configured` says whether construction succeeded, no operation changes it, and while it is false every
operation that is not reserved ends with `CONFIG_ERROR` and changes nothing. That a configuration which breaks R6's
field table fails too is the model's reading (log 14, DEDUCED), the conditions beyond the image size are the spec's
own decision D30, and what a failed block answers is D27. -/
def Obligations.UnconfiguredBlockAnswersConfigError : Prop :=
  (∀ (c : Cfg) (q : Bool) (d : Nat), (State.construct c q d).configured = c.wf ∧
    (State.construct c q d).response = ⟨if c.wf then .ok else .configError, .nothing⟩) ∧
  (∀ (i : Instr) (s t : State), exec i s = .next t → t.configured = s.configured) ∧
  (∀ (i : Instr) (s : State), Instr.port i ≠ none → s.configured = false →
    exec i s = .next { s with response := ⟨.configError, .nothing⟩ })

/-- R90, R29: construction with a well-formed configuration gives the reset values; with any other it fails with
`CONFIG_ERROR`. The values beyond bank and lock are the spec's own decision D26, what a failed construction is D27.
That a configuration which breaks R6's field table fails too is the model's reading (log 14, DEDUCED), the conditions
beyond the image size are the spec's own decision D30. -/
def Obligations.ConstructionGivesResetValues : Prop :=
  ∀ (c : Cfg) (q : Bool) (d : Nat),
    (State.construct c q d).cfg = c ∧
    (c.wf = true →
      (State.construct c q d).configured = true ∧
      (State.construct c q d).currentBank.length = c.nseg ∧
      (∀ seg < c.nseg, (State.construct c q d).currentBank.getD seg 0 = 0) ∧
      (State.construct c q d).locked = false ∧
      (c.hasWp = true → ∀ seg < c.nseg,
        (State.construct c q d).wp.getD seg false = c.wpReset.getD seg false) ∧
      (State.construct c q d).quirk = q ∧
      (State.construct c q d).response = ⟨.ok, .nothing⟩) ∧
    (c.wf = false →
      (State.construct c q d).configured = false ∧
      (State.construct c q d).response = ⟨.configError, .nothing⟩)

/-- R117: an image too small for the declared bank layout is fatal at construction, and for good: after any number of
steps the block is still unconfigured, and every operation it was given ended with `CONFIG_ERROR`, or with `REFUSED`
if its word is reserved. What a failed block answers is the spec's own decision D27. -/
def Obligations.ShortImageIsFatal : Prop :=
  ∀ (c : Cfg) (q : Bool) (d : Nat), c.imageSize < c.bankCount * c.bankSize →
    (State.construct c q d).response.status = .configError ∧
    ∀ (n : Nat) (ps : List Request) (t : State),
      Sys2Proof.core.run n { State.construct c q d with pending := ps } = .next t →
      t.configured = false ∧ (t.response.status = .configError ∨ t.response.status = .refused)

/-! `RESET`, `UNLOCK`, `QBANK`, `QLOCK` -/

/-- R97, R136: `RESET` of a configured block completes, restores bank 0 in every segment, clears `locked`, reloads the
write-protect flags and samples `SET_QUIRK`; `ram`, the image, `cfg` and `configured` stay. A second `RESET` with the
same input changes nothing. Of an unconfigured block it changes nothing. That `RESET` keeps `ram` and reloads `wp` is
the spec's own decision D26. That `RESET` keeps `ram` and reloads `wp` is the spec's own decision D26. -/
def Obligations.ResetRestoresThePowerOnState : Prop :=
  encode .reset = 0x2000000 ∧
  (∀ s : State, s.configured = false → exec .reset s = .next { s with response := ⟨.configError, .nothing⟩ }) ∧
  ∀ s : State, s.configured = true → ∃ t, exec .reset s = .next t ∧
    t.response = ⟨.ok, .nothing⟩ ∧
    t.currentBank.length = s.cfg.nseg ∧
    (∀ seg < s.cfg.nseg, t.currentBank.getD seg 0 = 0) ∧
    t.locked = false ∧
    (s.cfg.hasWp = true → ∀ seg < s.cfg.nseg, t.wp.getD seg false = s.cfg.wpReset.getD seg false) ∧
    t.quirk = s.ports.setQuirk ∧
    t.ram = s.ram ∧ t.ramDraw = s.ramDraw ∧ t.cfg = s.cfg ∧ t.configured = s.configured ∧
    t.pending = s.pending ∧ t.ports = s.ports ∧ t.draws = s.draws ∧
    exec .reset t = .next t

/-- R98, R20: `UNLOCK` of a configured block completes; it clears `locked` exactly when the lock policy is
externally-unlockable and `quirk` is set, and changes nothing else. The operation is the spec's own decision D15, the
gate on `quirk` D16. The operation is the spec's own decision D15, the gate on `quirk` D16. -/
def Obligations.UnlockClearsTheLockUnderItsPolicy : Prop :=
  encode .unlock = 0x3000000 ∧
  (∀ s : State, s.configured = false → exec .unlock s = .next { s with response := ⟨.configError, .nothing⟩ }) ∧
  ∀ s : State, s.configured = true →
    exec .unlock s = .next { s with
      locked := if s.quirk = true ∧ s.cfg.lockPolicy = .extUnlockable then false else s.locked
      response := ⟨.ok, .nothing⟩ }

/-- R99: `QBANK` answers the bank register of the named segment, reduced `mod NSEG`, and changes nothing; in a state
that meets the invariant the answer is a bank number of that segment, and times `BANK_SIZE` it is the base of the
segment's snapshot. The segment operand is the spec's own decision D29, the segments D9. -/
def Obligations.QbankAnswersTheBankRegister : Prop :=
  (∀ seg : BitVec 16, encode (.qbank seg) = (0x6 : BitVec 4) ++ seg ++ (0x00 : BitVec 8)) ∧
  (∀ (s : State) (seg : BitVec 16), s.configured = false →
    exec (.qbank seg) s = .next { s with response := ⟨.configError, .nothing⟩ }) ∧
  ∀ (s : State) (seg : BitVec 16), s.configured = true →
    exec (.qbank seg) s =
      .next { s with response := ⟨.ok, .bank (s.currentBank.getD (seg.toNat % s.cfg.nseg) 0)⟩ } ∧
    snapshot s (seg.toNat % s.cfg.nseg) =
      (s.currentBank.getD (seg.toNat % s.cfg.nseg) 0,
        s.currentBank.getD (seg.toNat % s.cfg.nseg) 0 * s.cfg.bankSize) ∧
    (s.Inv → s.currentBank.getD (seg.toNat % s.cfg.nseg) 0 < s.cfg.bankCountOf (seg.toNat % s.cfg.nseg))

/-- R100: `QLOCK` answers `locked` and changes nothing. -/
def Obligations.QlockAnswersTheLock : Prop :=
  encode .qlock = 0x7000000 ∧
  (∀ s : State, s.configured = false → exec .qlock s = .next { s with response := ⟨.configError, .nothing⟩ }) ∧
  ∀ s : State, s.configured = true → exec .qlock s = .next { s with response := ⟨.ok, .flag s.locked⟩ }

/-- R101: `QBANK` and `QLOCK` change nothing but the response, and any number of them inserted before an operation
change neither its outcome nor anything that follows. -/
def Obligations.IntrospectionCanBeInsertedAnywhere : Prop :=
  (∀ (i : Instr) (s : State), Instr.port i = some .introspection →
    ∃ r, exec i s = .next { s with response := r }) ∧
  ∀ (s : State) (qs : List Request) (r : Request) (rest : List Request),
    (∀ q ∈ qs, Instr.port (decode q.word) = some .introspection) →
    Sys2Proof.core.run (qs.length + 1) { s with pending := qs ++ r :: rest } =
      step { s with pending := r :: rest }

/-! The address decoder and the selector's operands -/

/-- R33, R96, R118: an access outside the window ends `NOT_HANDLED`, with no data and no change of state. -/
def Obligations.AccessOutsideTheWindowIsNotHandled : Prop :=
  ∀ (s : State) (a : BusAddr) (v : Byte), s.configured = true →
    ((a &&& s.cfg.mirrorMask).toNat < s.cfg.windowBase.toNat ∨
      s.cfg.windowBase.toNat + s.cfg.windowSize ≤ (a &&& s.cfg.mirrorMask).toNat) →
    exec (.read a) s = .next { s with response := ⟨.notHandled, .nothing⟩ } ∧
    exec (.write a v) s = .next { s with response := ⟨.notHandled, .nothing⟩ }

/-- R63, R32: the decoder answers none exactly outside the window, and otherwise an offset in `[0, WINDOW_SIZE)`: the
distance of the folded address from the base. -/
def Obligations.DecoderAnswersAnOffsetOfTheWindow : Prop :=
  ∀ (c : Cfg) (a : BusAddr),
    (decodeAddr c a = none ↔
      ¬ (c.windowBase.toNat ≤ (a &&& c.mirrorMask).toNat ∧
         (a &&& c.mirrorMask).toNat < c.windowBase.toNat + c.windowSize)) ∧
    (∀ off, decodeAddr c a = some off →
      off < c.windowSize ∧ c.windowBase.toNat + off = (a &&& c.mirrorMask).toNat)

/-- R64, R146: two addresses that differ only in mirror bits are indistinguishable to the block. -/
def Obligations.MirrorsAreIndistinguishable : Prop :=
  ∀ (s : State) (a a' : BusAddr) (v : Byte), a &&& s.cfg.mirrorMask = a' &&& s.cfg.mirrorMask →
    decodeAddr s.cfg a = decodeAddr s.cfg a' ∧
    exec (.read a) s = exec (.read a') s ∧
    exec (.write a v) s = exec (.write a' v) s

/-- R32, R66, vectors 2.1: in the reference configurations the window is every address with bit 12 set, and the offset
is the low 12 bits. The mask and the base are the spec's general knowledge G1, G2. -/
def Obligations.ReferenceWindowIsBitTwelve : Prop :=
  ∀ (n : Nat) (hotOnRead : Bool) (image : Memory) (id : String) (a : BusAddr),
    decodeAddr (tvboyRef n hotOnRead image id) a =
      if a.getLsbD 12 then some (a &&& 0xFFF).toNat else none

/-- R68: in a well-formed configuration the hot lookup finds the range that holds the offset, and none when no range
does; so at most one range holds it. -/
def Obligations.HotLookupFindsTheOneRange : Prop :=
  ∀ (c : Cfg) (off : Nat), c.wf = true →
    (∀ h, hotLookup c off = some h ↔ HotAt c h off) ∧
    (hotLookup c off = none ↔ ∀ h, ¬ HotAt c h off) ∧
    (∀ h h', HotAt c h off → HotAt c h' off → h = h')

/-- R55, R56, R70: the target bank is the raw bank number of the range's source reduced `mod bankCount`, and is a bank
of the range's segment. `mod` and the sources other than `OFFSET_MOD` are the spec's own decisions D8, D10. -/
def Obligations.TargetBankIsReduced : Prop :=
  ∀ (c : Cfg) (h : HotRange) (off : Nat) (v : Byte), c.wf = true → HotAt c h off →
    (h.source = .offsetMod → target c h off v = off % c.bankCountOf h.seg) ∧
    (h.source = .offsetRel → target c h off v = (off - h.lo) % c.bankCountOf h.seg) ∧
    (h.source = .data → target c h off v = v.toNat % c.bankCountOf h.seg) ∧
    target c h off v < c.bankCountOf h.seg

/-! `READ` and `WRITE` -/

/-- R92, R35, R42, R82: a read inside the window that does not trigger the selector completes with the byte of the
bank mapped into its segment and changes nothing. -/
def Obligations.PlainReadAnswersTheMappedByte : Prop :=
  ∀ (s : State) (a : BusAddr) (off : Nat), s.Inv → s.configured = true → decodeAddr s.cfg a = some off →
    (∀ h, HotAt s.cfg h off → s.cfg.hotOnRead = false ∨ h.source = .data) →
    exec (.read a) s = .next { s with response := ⟨.ok, .byte
      (byteAt s (s.cfg.kindOf (off / s.cfg.bankSize))
        (s.currentBank.getD (off / s.cfg.bankSize) 0 * s.cfg.bankSize + off % s.cfg.bankSize))⟩ }

/-- R71, R47, R74 to R78 for reads: an unlocked triggering read whose target is not the mapped bank completes; it
switches the range's segment, sets `locked` exactly when the effective policy locks and the target is not 0, and
answers the byte of the bank registers as the switch left them. That the answer is the new bank's byte, the corner
cases of the lock, the externally-unlockable policy and the gate on `quirk` are the spec's own decisions D12, D14,
D15, D16. That the answer is the new bank's byte, the corner cases of the lock, the externally-unlockable policy and
the gate on `quirk` are the spec's own decisions D12, D14, D15, D16. -/
def Obligations.TriggeringReadSwitches : Prop :=
  ∀ (s : State) (a : BusAddr) (off : Nat) (h : HotRange) (b : Nat), s.Inv → s.configured = true →
    decodeAddr s.cfg a = some off → HotAt s.cfg h off → s.cfg.hotOnRead = true → h.source ≠ .data →
    s.locked = false → b = target s.cfg h off 0 → b ≠ s.currentBank.getD h.seg 0 →
    exec (.read a) s = .next { s with
      currentBank := s.currentBank.set h.seg b
      locked := decide (s.quirk = true ∧ s.cfg.lockPolicy ≠ .none ∧ b ≠ 0)
      response := ⟨.ok, .byte
        (byteAt s (s.cfg.kindOf (off / s.cfg.bankSize))
          ((s.currentBank.set h.seg b).getD (off / s.cfg.bankSize) 0 * s.cfg.bankSize +
            off % s.cfg.bankSize))⟩ }

/-- R71, R69, R74 to R78 for writes: an unlocked write in a hot range whose target is not the mapped bank completes;
it switches the range's segment and sets `locked` exactly when the effective policy locks and the target is not 0.
What it stores is the subject of the statements on stores. The corner cases of the lock, the externally-unlockable
policy and the gate on `quirk` are the spec's own decisions D14, D15, D16. The corner cases of the lock, the
externally-unlockable policy and the gate on `quirk` are the spec's own decisions D14, D15, D16. -/
def Obligations.HotWriteSwitches : Prop :=
  ∀ (s : State) (a : BusAddr) (v : Byte) (off : Nat) (h : HotRange) (b : Nat), s.Inv → s.configured = true →
    decodeAddr s.cfg a = some off → HotAt s.cfg h off →
    s.locked = false → b = target s.cfg h off v → b ≠ s.currentBank.getD h.seg 0 →
    ∃ t, exec (.write a v) s = .next t ∧ t.response.status = .ok ∧
      t.currentBank = s.currentBank.set h.seg b ∧
      t.locked = decide (s.quirk = true ∧ s.cfg.lockPolicy ≠ .none ∧ b ≠ 0) ∧
      t.cfg = s.cfg ∧ t.configured = s.configured ∧ t.wp = s.wp ∧ t.quirk = s.quirk ∧
      t.ramDraw = s.ramDraw ∧ t.pending = s.pending ∧ t.ports = s.ports ∧ t.draws = s.draws

/-- R73: a locked block changes no bank register and not `locked` on any access, whatever its policy. The data phase
still happens: a read answers the byte of the unchanged bank, and a write stores as `Store8` does with the unchanged
banks and answers the byte then there. The lock test is the spec's own decision D14, the data phase D13, the byte a
write answers D19 (log 17). -/
def Obligations.LockBlocksEverySwitch : Prop :=
  ∀ (s : State) (a : BusAddr) (v : Byte) (off : Nat), s.Inv → s.configured = true →
    decodeAddr s.cfg a = some off → s.locked = true →
    exec (.read a) s = .next { s with response := ⟨.ok, .byte
      (byteAt s (s.cfg.kindOf (off / s.cfg.bankSize))
        (s.currentBank.getD (off / s.cfg.bankSize) 0 * s.cfg.bankSize + off % s.cfg.bankSize))⟩ } ∧
    ∃ u b, store8 s off v = some u ∧ load8 u off = some b ∧
      exec (.write a v) s = .next { u with response := ⟨.ok, .byte b⟩ } ∧
      u.currentBank = s.currentBank ∧ u.locked = true

/-- R72, R75: an access that selects the bank already mapped completes and changes no bank register and no flag. A
read answers the mapped byte and changes nothing, also where it triggers the selector (R92, R93). That the data phase
runs is the spec's own decision D13 (log 17). -/
def Obligations.ReselectingTheMappedBankChangesNothing : Prop :=
  ∀ (s : State) (a : BusAddr) (v : Byte) (off : Nat) (h : HotRange), s.Inv → s.configured = true →
    decodeAddr s.cfg a = some off → HotAt s.cfg h off →
    (target s.cfg h off 0 = s.currentBank.getD h.seg 0 →
      exec (.read a) s = .next { s with response := ⟨.ok, .byte
        (byteAt s (s.cfg.kindOf (off / s.cfg.bankSize))
          (s.currentBank.getD (off / s.cfg.bankSize) 0 * s.cfg.bankSize + off % s.cfg.bankSize))⟩ }) ∧
    (target s.cfg h off v = s.currentBank.getD h.seg 0 →
      ∃ t, exec (.write a v) s = .next t ∧ t.response.status = .ok ∧
        t.currentBank = s.currentBank ∧ t.locked = s.locked ∧ t.wp = s.wp ∧ t.quirk = s.quirk ∧
        t.cfg = s.cfg ∧ t.configured = s.configured ∧ t.ramDraw = s.ramDraw ∧ t.pending = s.pending ∧
        t.ports = s.ports ∧ t.draws = s.draws)

/-- R84, R38, R120: a write whose offset lies in a ROM segment completes with `OK`, stores nothing, has the selector's
effect, and answers the ROM byte now mapped there. The byte answered is the spec's own decision D19 (R95, log 17). -/
def Obligations.WriteToRomStoresNothing : Prop :=
  ∀ (s : State) (a : BusAddr) (v : Byte) (off : Nat), s.Inv → s.configured = true →
    decodeAddr s.cfg a = some off → s.cfg.kindOf (off / s.cfg.bankSize) = .rom →
    ∃ t, exec (.write a v) s = .next t ∧
      t.response = ⟨.ok, .byte (imageAt s.cfg
        (t.currentBank.getD (off / s.cfg.bankSize) 0 * s.cfg.bankSize + off % s.cfg.bankSize))⟩ ∧
      (∀ i, imageAt t.cfg i = imageAt s.cfg i) ∧ (∀ i, ramAt t i = ramAt s i) ∧
      t.cfg = s.cfg ∧ t.ram = s.ram ∧
      t.currentBank = (select s off true v).currentBank ∧ t.locked = (select s off true v).locked ∧
      t.configured = s.configured ∧ t.wp = s.wp ∧ t.quirk = s.quirk ∧
      t.ramDraw = s.ramDraw ∧ t.pending = s.pending ∧ t.ports = s.ports ∧ t.draws = s.draws

/-- R85, R38: a write whose offset lies in a write-protected RAM segment completes with `OK`, stores nothing, has the
selector's effect, and answers the RAM byte that stays there. What a set flag does is the spec's own decision D18, the
byte answered D19. What a set flag does is the spec's own decision D18, the byte answered D19. -/
def Obligations.WriteToProtectedRamStoresNothing : Prop :=
  ∀ (s : State) (a : BusAddr) (v : Byte) (off : Nat), s.Inv → s.configured = true →
    decodeAddr s.cfg a = some off → s.cfg.kindOf (off / s.cfg.bankSize) = .ram →
    s.cfg.hasWp = true → s.wp.getD (off / s.cfg.bankSize) false = true →
    ∃ t, exec (.write a v) s = .next t ∧
      t.response = ⟨.ok, .byte (ramAt s
        (t.currentBank.getD (off / s.cfg.bankSize) 0 * s.cfg.bankSize + off % s.cfg.bankSize))⟩ ∧
      (∀ i, imageAt t.cfg i = imageAt s.cfg i) ∧ (∀ i, ramAt t i = ramAt s i) ∧
      t.cfg = s.cfg ∧ t.ram = s.ram ∧
      t.currentBank = (select s off true v).currentBank ∧ t.locked = (select s off true v).locked ∧
      t.configured = s.configured ∧ t.wp = s.wp ∧ t.quirk = s.quirk ∧
      t.ramDraw = s.ramDraw ∧ t.pending = s.pending ∧ t.ports = s.ports ∧ t.draws = s.draws

/-- R83, R94, R95: a write whose offset lies in a RAM segment that is not write-protected completes with `OK` and the
written byte; it stores that byte at the index of the bank as the selector left it, and no other byte changes. The RAM
layout is the spec's own decision D17, the byte answered D19. The RAM layout is the spec's own decision D17, the byte
answered D19. -/
def Obligations.WriteToRamStoresOneByte : Prop :=
  ∀ (s : State) (a : BusAddr) (v : Byte) (off : Nat), s.Inv → s.configured = true →
    decodeAddr s.cfg a = some off → s.cfg.kindOf (off / s.cfg.bankSize) = .ram →
    (s.cfg.hasWp = false ∨ s.wp.getD (off / s.cfg.bankSize) false = false) →
    ∃ t, exec (.write a v) s = .next t ∧ t.response = ⟨.ok, .byte v⟩ ∧
      (∀ i, storeIndex (select s off true v) off = some i →
        i = t.currentBank.getD (off / s.cfg.bankSize) 0 * s.cfg.bankSize + off % s.cfg.bankSize ∧
        ramAt t i = v ∧ ∀ j, j ≠ i → ramAt t j = ramAt s j) ∧
      (storeIndex (select s off true v) off).isSome = true ∧
      t.currentBank = (select s off true v).currentBank ∧ t.locked = (select s off true v).locked ∧
      t.cfg = s.cfg ∧ t.configured = s.configured ∧ t.wp = s.wp ∧ t.quirk = s.quirk ∧
      t.ramDraw = s.ramDraw ∧ t.pending = s.pending ∧ t.ports = s.ports ∧ t.draws = s.draws

/-- R45: after a write that stored into RAM, a plain read of any mirror of the address answers the written byte. The
RAM layout is the spec's own decision D17. The RAM layout is the spec's own decision D17. -/
def Obligations.RamReadAnswersTheLatestWrite : Prop :=
  ∀ (s t : State) (a a' : BusAddr) (v : Byte) (off : Nat), s.Inv → s.configured = true →
    decodeAddr s.cfg a = some off → s.cfg.kindOf (off / s.cfg.bankSize) = .ram →
    (s.cfg.hasWp = false ∨ s.wp.getD (off / s.cfg.bankSize) false = false) →
    a &&& s.cfg.mirrorMask = a' &&& s.cfg.mirrorMask →
    (∀ h, HotAt s.cfg h off → s.cfg.hotOnRead = false ∨ h.source = .data) →
    exec (.write a v) s = .next t →
    exec (.read a') t = .next { t with response := ⟨.ok, .byte v⟩ }

/-- The frame of `READ` (R23, R92): no byte of memory, no flag but `locked`, and no bank register changes but that of
the segment which a hot range holding the offset names. -/
def Obligations.ReadFrame : Prop :=
  ∀ (s t : State) (a : BusAddr), exec (.read a) s = .next t →
    t.cfg = s.cfg ∧ t.configured = s.configured ∧ t.wp = s.wp ∧ t.quirk = s.quirk ∧ t.ram = s.ram ∧
    t.ramDraw = s.ramDraw ∧ t.pending = s.pending ∧ t.ports = s.ports ∧ t.draws = s.draws ∧
    (∀ i, ramAt t i = ramAt s i) ∧
    (∀ seg, (∀ off h, decodeAddr s.cfg a = some off → HotAt s.cfg h off →
        s.cfg.hotOnRead = true → h.source ≠ .data → h.seg ≠ seg) →
      t.currentBank.getD seg 0 = s.currentBank.getD seg 0) ∧
    ((∀ off h, decodeAddr s.cfg a = some off → HotAt s.cfg h off →
        s.cfg.hotOnRead = false ∨ h.source = .data) → t.locked = s.locked)

/-- The frame of `WRITE` (R23, R80, R94): every byte of RAM but the one stored to, every flag but `locked`, and every
bank register but that of the segment which a hot range holding the offset names, stays; one access changes at most
one bank register. -/
def Obligations.WriteFrame : Prop :=
  ∀ (s t : State) (a : BusAddr) (v : Byte), exec (.write a v) s = .next t →
    t.cfg = s.cfg ∧ t.configured = s.configured ∧ t.wp = s.wp ∧ t.quirk = s.quirk ∧
    t.ramDraw = s.ramDraw ∧ t.pending = s.pending ∧ t.ports = s.ports ∧ t.draws = s.draws ∧
    (∀ j, (∀ off i, decodeAddr s.cfg a = some off → storeIndex (select s off true v) off = some i → j ≠ i) →
      ramAt t j = ramAt s j) ∧
    (∀ seg, (∀ off h, decodeAddr s.cfg a = some off → HotAt s.cfg h off → h.seg ≠ seg) →
      t.currentBank.getD seg 0 = s.currentBank.getD seg 0) ∧
    ((∀ off h, decodeAddr s.cfg a = some off → ¬ HotAt s.cfg h off) → t.locked = s.locked)

/-- R42, R92 (b): repeating a read at once gives the same byte and changes nothing further, in a hot range too. -/
def Obligations.RepeatedReadIsIdempotent : Prop :=
  ∀ (s t : State) (a : BusAddr), s.Inv → exec (.read a) s = .next t → exec (.read a) t = .next t

/-- R88, R145: where a read would not trigger, the fast path gives the byte that `READ` gives, and `READ` leaves the
state as it was; where it would trigger, the fast path gives nothing. -/
def Obligations.FastPathAgreesWithRead : Prop :=
  ∀ (s : State) (a : BusAddr) (off : Nat), s.Inv → s.configured = true → decodeAddr s.cfg a = some off →
    ((∃ h, HotAt s.cfg h off ∧ s.cfg.hotOnRead = true ∧ h.source ≠ .data) → fastRead s a = none) ∧
    ((∀ h, HotAt s.cfg h off → s.cfg.hotOnRead = false ∨ h.source = .data) →
      ∃ b, fastRead s a = some b ∧ exec (.read a) s = .next { s with response := ⟨.ok, .byte b⟩ })

/-! The stores -/

/-- R36: the physical index of every offset of the window is inside the banks of its segment, and so inside the store.
-/
def Obligations.PhysicalIndexIsInRange : Prop :=
  ∀ (s : State) (off : Nat), s.Inv → s.configured = true → off < s.cfg.windowSize →
    phys s off < s.cfg.bankCountOf (off / s.cfg.bankSize) * s.cfg.bankSize ∧
    (s.cfg.kindOf (off / s.cfg.bankSize) = .rom → phys s off < s.cfg.imageSize) ∧
    (s.cfg.kindOf (off / s.cfg.bankSize) = .ram → phys s off < s.cfg.ramBankCount * s.cfg.bankSize)

/-- R37: bytes of the image at indices from `BANK_COUNT * BANK_SIZE` up are never reachable: with another image that
agrees below that index, every operation does the same. -/
def Obligations.ImageTailIsUnreachable : Prop :=
  ∀ (s t : State) (i : Instr) (image : Memory) (free : Nat), s.Inv →
    (∀ k < s.cfg.bankCount * s.cfg.bankSize,
      imageAt { s.cfg with image := image, imageFree := free } k = imageAt s.cfg k) →
    exec i s = .next t →
    exec i { s with cfg := { s.cfg with image := image, imageFree := free } } =
      .next { t with cfg := { t.cfg with image := image, imageFree := free } }

/-- R89, R6: no step changes the image or any other field of the configuration. -/
def Obligations.ConfigurationNeverChanges : Prop :=
  ∀ (n : Nat) (s t : State), Sys2Proof.core.run n s = .next t →
    t.cfg = s.cfg ∧ t.configured = s.configured ∧ ∀ i, imageAt t.cfg i = imageAt s.cfg i

/-! `SAVE` and `LOAD` -/

/-- R105, R107: `SAVE` to a stream that refuses none of its fields completes, appends the field list of R105 and
changes nothing in the block. The order of the fields is the spec's own decision D21. -/
def Obligations.SaveAppendsTheFieldList : Prop :=
  ∀ s : State, s.configured = true →
    (∀ k, s.ports.outRefuses = some k →
      (if s.cfg.hasWp then 2 * s.cfg.nseg + 1 else s.cfg.nseg + 1) ≤ k) →
    exec .save s = .next { s with
      ports := { s.ports with
        outStream := s.ports.outStream ++
          ((List.range s.cfg.nseg).map (fun seg => Field.int (s.currentBank.getD seg 0)) ++
            (if s.cfg.hasWp then (List.range s.cfg.nseg).map (fun seg => Field.bool (s.wp.getD seg false)) else []) ++
            [Field.bool s.locked]) }
      response := ⟨.ok, .nothing⟩ }

/-- R107, R108, R122: `SAVE` to a stream that refuses one of its fields ends with `SAVE_FAILURE` and changes nothing
in the block; what the output stream then holds is left open. -/
def Obligations.SaveFailureLeavesTheBlock : Prop :=
  ∀ (s : State) (k : Nat), s.configured = true → s.ports.outRefuses = some k →
    k < (if s.cfg.hasWp then 2 * s.cfg.nseg + 1 else s.cfg.nseg + 1) →
    ∃ t, exec .save s = .next t ∧ t.response = ⟨.saveFailure, .nothing⟩ ∧ SameBlock s t ∧
      t.pending = s.pending ∧ t.ports.inStream = s.ports.inStream

/-- R109, R111, R112, R113: `LOAD` from a stream that begins with the field list completes and replaces all of
`BankState`, the bank numbers reduced `mod bankCount(s)`; further fields are left unread and nothing else changes.
Which streams load, the reduction and that `ram` stays are the spec's own decisions D22, D23. -/
def Obligations.LoadReplacesTheBankState : Prop :=
  ∀ (s : State) (banks : List Nat) (wp : List Bool) (l : Bool) (rest : List Field), s.configured = true →
    banks.length = s.cfg.nseg → wp.length = (if s.cfg.hasWp then s.cfg.nseg else 0) →
    s.ports.inStream = banks.map Field.int ++ (wp.map Field.bool ++ (Field.bool l :: rest)) →
    ∃ t, exec .load s = .next t ∧ t.response = ⟨.ok, .nothing⟩ ∧
      t.currentBank.length = s.cfg.nseg ∧
      (∀ seg < s.cfg.nseg, t.currentBank.getD seg 0 = banks.getD seg 0 % s.cfg.bankCountOf seg) ∧
      t.wp = (if s.cfg.hasWp then wp else s.wp) ∧ t.locked = l ∧
      t.ports = { s.ports with inStream := rest } ∧
      t.cfg = s.cfg ∧ t.configured = s.configured ∧ t.quirk = s.quirk ∧ t.ram = s.ram ∧
      t.ramDraw = s.ramDraw ∧ t.pending = s.pending ∧ t.draws = s.draws

/-- R110, R121: `LOAD` from a stream that does not begin with the field list ends with `LOAD_FAILURE` and changes
nothing in the block: no part of `BankState` is overwritten. -/
def Obligations.LoadFailureLeavesTheBlock : Prop :=
  ∀ s : State, s.configured = true →
    (¬ ∃ (banks : List Nat) (wp : List Bool) (l : Bool) (rest : List Field),
      banks.length = s.cfg.nseg ∧ wp.length = (if s.cfg.hasWp then s.cfg.nseg else 0) ∧
      s.ports.inStream = banks.map Field.int ++ (wp.map Field.bool ++ (Field.bool l :: rest))) →
    ∃ t, exec .load s = .next t ∧ t.response = ⟨.loadFailure, .nothing⟩ ∧ SameBlock s t ∧
      t.pending = s.pending ∧ t.ports.outStream = s.ports.outStream

/-- R114: for two blocks with one configuration, a `LOAD` in the second of the fields that a `SAVE` in the first wrote
gives the second the first's `currentBank`, `wp` and `locked`, in every state of the product. -/
def Obligations.SaveLoadRoundTrip : Prop :=
  ∀ s u : State, s.Inv → u.Inv → s.configured = true → u.configured = true → u.cfg = s.cfg →
    (∀ k, s.ports.outRefuses = some k →
      (if s.cfg.hasWp then 2 * s.cfg.nseg + 1 else s.cfg.nseg + 1) ≤ k) →
    ∃ (t : State) (written : List Field), exec .save s = .next t ∧
      t.ports.outStream = s.ports.outStream ++ written ∧
      ∀ rest, ∃ t', exec .load { u with ports := { u.ports with inStream := written ++ rest } } = .next t' ∧
        t'.currentBank = s.currentBank ∧ t'.wp = s.wp ∧ t'.locked = s.locked

/-! The whole machine -/

/-- The invariant holds of every block right after construction (R15, R29, R90), and of the model's reset state, which
is the construction of the reference configuration the model chose (log 3). -/
def Obligations.ConstructedBlocksMeetTheInvariant : Prop :=
  (∀ (c : Cfg) (q : Bool) (d : Nat), (State.construct c q d).Inv) ∧
  State.reset = State.construct (tvboyRef8 Config.hotOnRead [] Config.contentId) true 0 ∧
  State.reset.Inv

/-- R15: every step keeps the invariant: the bank registers stay in range, the configuration stays well-formed and the
RAM stays a canonical memory inside its array. -/
def Obligations.StepKeepsTheInvariant : Prop :=
  ∀ s t : State, s.Inv → step s = .next t → t.Inv

/-- R125: the block never faults, hangs or stops: from a state that meets the invariant, any number of steps over any
sequence of operations with any inputs answers. -/
def Obligations.BlockNeverStops : Prop :=
  ∀ (n : Nat) (s : State), s.Inv → ∃ t : State, Sys2Proof.core.run n s = .next t

/-- R127, R116: every operation answers with the one outcome that the fixed order of checks gives: reserved, then
unconfigured, then not handled, then stream failure, then `OK`. The order is the spec's own decision D25. -/
def Obligations.OutcomeFollowsTheCheckOrder : Prop :=
  ∀ (i : Instr) (s : State), s.Inv → ∃ t, exec i s = .next t ∧
    t.response.status =
      if Instr.port i = none then .refused
      else if s.configured = false then .configError
      else match i with
        | .read a => if decodeAddr s.cfg a = none then .notHandled else .ok
        | .write a _ => if decodeAddr s.cfg a = none then .notHandled else .ok
        | .save => if (s.ports.outRefuses.any fun k =>
            decide (k < if s.cfg.hasWp then 2 * s.cfg.nseg + 1 else s.cfg.nseg + 1)) then .saveFailure else .ok
        | .load => if stage s.cfg s.ports.inStream = none then .loadFailure else .ok
        | _ => .ok

/-- R130, R23: what the operations of each port may change; a reserved word changes nothing. The ports are the spec's
own decision D35. The clause on reserved words is R52's, the spec's own decision D3 in the model's reading (log 9,
DEDUCED). -/
def Obligations.PortsHaveFixedRights : Prop :=
  ∀ (i : Instr) (s t : State), exec i s = .next t →
    t.cfg = s.cfg ∧ t.configured = s.configured ∧ t.ramDraw = s.ramDraw ∧ t.pending = s.pending ∧
    match Instr.port i with
    | some .bus => t.wp = s.wp ∧ t.quirk = s.quirk
    | some .control => True
    | some .persistence => t.quirk = s.quirk ∧ t.ram = s.ram ∧ (i = .save → SameBlock s t)
    | some .introspection => SameBlock s t
    | none => SameBlock s t

/-- R17: from a locked state no sequence of `READ`, `WRITE`, `QBANK`, `QLOCK`, `SAVE` changes a bank register or
`locked`; the operations that unlock are exactly `RESET`, `UNLOCK` under the externally-unlockable policy, and a
`LOAD` whose stream holds an unlocked state; and a construction that succeeds leaves the block unlocked. `UNLOCK` is
the spec's own decision D15. `UNLOCK` is the spec's own decision D15. -/
def Obligations.LockHoldsUntilAnUnlockCondition : Prop :=
  (∀ (n : Nat) (s t : State), s.locked = true → NoUnlocker s → Sys2Proof.core.run n s = .next t →
    t.currentBank = s.currentBank ∧ t.locked = true) ∧
  (∀ (i : Instr) (s t : State), s.configured = true → exec i s = .next t → s.locked = true →
    (t.locked = false ↔
      i = .reset ∨ (i = .unlock ∧ s.effPolicy = .extUnlockable) ∨
      (i = .load ∧ ∃ b rest, stage s.cfg s.ports.inStream = some (b, rest) ∧ b.locked = false))) ∧
  (∀ (i : Instr) (s t : State), s.configured = false → exec i s = .next t → t.locked = s.locked) ∧
  (∀ (c : Cfg) (q : Bool) (d : Nat), c.wf = true → (State.construct c q d).locked = false)

/-- R16, R74, R77: `locked` is set only by a bus access that switches a segment to a bank other than 0 under a policy
that locks, with `quirk` set, and by a `LOAD` whose stream holds a locked state. The externally-unlockable policy and
the gate on `quirk` are the spec's own decisions D15, D16. The externally-unlockable policy and the gate on `quirk`
are the spec's own decisions D15, D16. -/
def Obligations.OnlySwitchesAndLoadsLock : Prop :=
  ∀ (i : Instr) (s t : State), s.Inv → exec i s = .next t → s.locked = false → t.locked = true →
    (Instr.port i = some .bus ∧ s.quirk = true ∧ s.cfg.lockPolicy ≠ .none ∧
      ∃ seg, t.currentBank.getD seg 0 ≠ s.currentBank.getD seg 0 ∧ t.currentBank.getD seg 0 ≠ 0) ∨
    (i = .load ∧ ∃ b rest, stage s.cfg s.ports.inStream = some (b, rest) ∧ b.locked = true)

/-- R25: under the effective self-locking policy with one segment, the states that bus operations reach from a
construction are (bank 0, unlocked) and (bank b, locked) for b other than 0. The gate on `quirk` is the spec's own
decision D16. The gate on `quirk` is the spec's own decision D16. -/
def Obligations.SelfLockingReachesTwoKindsOfState : Prop :=
  (∀ (c : Cfg) (d : Nat), c.wf = true → c.lockPolicy = .selfLocking → c.nseg = 1 →
    SelfLockShape (State.construct c true d)) ∧
  (∀ (n : Nat) (s t : State), s.Inv → s.configured = true → SelfLockShape s → OnlyBus s →
    Sys2Proof.core.run n s = .next t → SelfLockShape t)

/-- R74, R141: under the effective self-locking policy, after the first access that switches a segment to a bank other
than 0 no sequence of bus operations changes a bank register again. The gate on `quirk` is the spec's own decision
D16. The gate on `quirk` is the spec's own decision D16. -/
def Obligations.FirstSwitchIsTheLast : Prop :=
  ∀ (i : Instr) (s t : State), s.Inv → s.effPolicy = .selfLocking → Instr.port i = some .bus →
    exec i s = .next t →
    (∃ seg, t.currentBank.getD seg 0 ≠ s.currentBank.getD seg 0 ∧ t.currentBank.getD seg 0 ≠ 0) →
    OnlyBus t → ∀ (n : Nat) (u : State), Sys2Proof.core.run n t = .next u →
      u.currentBank = t.currentBank ∧ u.locked = true

/-- R19, R102: `quirk` takes the input `SET_QUIRK` at construction and at a `RESET` and never otherwise, and no other
operation depends on that input. -/
def Obligations.SettingIsSampledOnlyAtReset : Prop :=
  (∀ (c : Cfg) (q : Bool) (d : Nat), c.wf = true → (State.construct c q d).quirk = q) ∧
  (∀ (i : Instr) (s t : State), exec i s = .next t →
    t.quirk = if i = .reset ∧ s.configured = true then s.ports.setQuirk else s.quirk) ∧
  (∀ (i : Instr) (s t : State) (q : Bool), i ≠ .reset → exec i s = .next t →
    exec i { s with ports := { s.ports with setQuirk := q } } =
      .next { t with ports := { t.ports with setQuirk := q } })

/-- R60: in the reference configurations, the expansion of `SEL b` is the write to 0x1800 + b, and it maps bank `b` in
an unlocked block. The notation is the spec's own decision D4, the hot range its general knowledge G3. -/
def Obligations.SelMapsTheBank : Prop :=
  ∀ (s : State) (n b : Nat) (hotOnRead : Bool) (image : Memory) (id : String),
    (n = 8 ∨ n = 128) → s.cfg = tvboyRef n hotOnRead image id → s.Inv → s.configured = true →
    s.locked = false → b < n →
    selInstr s.cfg b = some (.write (BitVec.ofNat 16 (0x1800 + b)) 0) ∧
    ∃ t, exec (.write (BitVec.ofNat 16 (0x1800 + b)) 0) s = .next t ∧ t.currentBank = [b]
end

