-- ==== Sys2Proof/Laws/Memory.lean ====
section
/-! SUPPORT. The laws of a memory: read after write, and that a write keeps the canonical form. -/

namespace Sys2Proof.Machine

theorem wf_cons {c : Host.Cell} {m : Memory} :
    Memory.wf (c :: m) = true ↔ (∀ d ∈ m, c.1 < d.1) ∧ Memory.wf m = true := by
  simp [Memory.wf, List.pairwise_cons]

theorem within_iff {m : Memory} {n : Nat} : m.within n = true ↔ ∀ c ∈ m, c.1 < n := by
  simp [Memory.within, List.all_eq_true]

theorem readMem_writeMem_same (m : Memory) (i : Nat) (v : Byte) :
    readMem (writeMem m i v) i = some v := by
  induction m with
  | nil => simp [writeMem, readMem]
  | cons c m ih =>
    simp only [writeMem]
    split
    · simp [readMem]
    · split
      · simp [readMem]
      · simp_all [readMem]

theorem readMem_writeMem_other (m : Memory) {i j : Nat} (v : Byte) (h : j ≠ i) :
    readMem (writeMem m i v) j = readMem m j := by
  have hij : ¬ i = j := fun e => h e.symm
  induction m with
  | nil => simp [writeMem, readMem, hij]
  | cons c m ih =>
    simp only [writeMem]
    split
    · simp [readMem, hij]
    · split
      · simp_all [readMem]
      · simp [readMem, ih]

theorem mem_writeMem {m : Memory} {i : Nat} {v : Byte} {c : Host.Cell} (h : c ∈ writeMem m i v) :
    c = (i, v) ∨ c ∈ m := by
  induction m with
  | nil => exact .inl (by simpa [writeMem] using h)
  | cons d m ih =>
    simp only [writeMem] at h
    split at h
    · simpa using h
    · split at h
      · rcases List.mem_cons.mp h with h | h
        · exact .inl h
        · exact .inr (List.mem_cons_of_mem _ h)
      · rcases List.mem_cons.mp h with h | h
        · exact .inr (by simp [h])
        · rcases ih h with h | h
          · exact .inl h
          · exact .inr (List.mem_cons_of_mem _ h)

/-- Every memory write keeps the canonical form. -/
theorem writeMem_wf {m : Memory} (i : Nat) (v : Byte) (h : m.wf = true) :
    (writeMem m i v).wf = true := by
  induction m with
  | nil => simp [writeMem, Memory.wf]
  | cons c m ih =>
    obtain ⟨hc, hm⟩ := wf_cons.mp h
    simp only [writeMem]
    split
    · rename_i hlt
      refine wf_cons.mpr ⟨fun d hd => ?_, h⟩
      rcases List.mem_cons.mp hd with rfl | hd
      · exact hlt
      · exact Nat.lt_trans hlt (hc d hd)
    · split
      · rename_i heq
        exact wf_cons.mpr ⟨fun d hd => heq ▸ hc d hd, hm⟩
      · rename_i h1 h2
        refine wf_cons.mpr ⟨fun d hd => ?_, ih hm⟩
        rcases mem_writeMem hd with rfl | hd
        · show c.1 < i
          omega
        · exact hc d hd

theorem writeMem_within {m : Memory} {i n : Nat} (v : Byte) (h : m.within n = true) (hi : i < n) :
    (writeMem m i v).within n = true := by
  rw [within_iff] at h ⊢
  intro c hc
  rcases mem_writeMem hc with rfl | hc
  · exact hi
  · exact h c hc

@[simp] theorem ramAt_writeRam_same (s : State) (i : Nat) (v : Byte) : ramAt (s.writeRam i v) i = v := by
  simp [ramAt, State.writeRam, readMem_writeMem_same]

theorem ramAt_writeRam_other (s : State) {i j : Nat} (v : Byte) (h : j ≠ i) :
    ramAt (s.writeRam i v) j = ramAt s j := by
  simp [ramAt, State.writeRam, readMem_writeMem_other _ _ h]

end Sys2Proof.Machine
end

