-- ==== Sys2Proof/Laws/Config.lean ====
section
/-! SUPPORT. What a well-formed configuration (R8) gives: positive sizes, a window made of whole segments, positive bank
counts, stores that hold their banks, and hot ranges that lie in the window and do not overlap. -/

namespace Sys2Proof

theorem Cfg.wf_iff (c : Cfg) : c.wf = true ↔
    c.sizesOk = true ∧ c.windowOk = true ∧ c.banksOk = true ∧ c.imageOk = true ∧ c.ramOk = true ∧
      c.hotOk = true ∧ c.wpOk = true ∧ c.shapeOk = true := by
  simp [Cfg.wf, and_assoc]

theorem Cfg.wf_sizes {c : Cfg} (h : c.wf = true) :
    1 ≤ c.windowSize ∧ 1 ≤ c.bankSize ∧ c.windowSize = c.nseg * c.bankSize := by
  have h1 := (c.wf_iff.mp h).1
  simp only [Cfg.sizesOk, Bool.and_eq_true, decide_eq_true_eq] at h1
  exact ⟨h1.1.1, h1.1.2, (Nat.div_mul_cancel (Nat.dvd_of_mod_eq_zero h1.2)).symm⟩

theorem Cfg.wf_nseg_pos {c : Cfg} (h : c.wf = true) : 0 < c.nseg := by
  obtain ⟨h1, _, h3⟩ := wf_sizes h
  rcases Nat.eq_zero_or_pos c.nseg with h0 | h0
  · rw [h0, Nat.zero_mul] at h3
    omega
  · exact h0

theorem Cfg.wf_window {c : Cfg} (h : c.wf = true) :
    c.windowBase.toNat + c.windowSize ≤ 65536 ∧ c.windowBase &&& c.mirrorMask = c.windowBase := by
  have h1 := (c.wf_iff.mp h).2.1
  simpa [Cfg.windowOk] using h1

theorem Cfg.wf_banks {c : Cfg} (h : c.wf = true) :
    1 ≤ c.bankCount ∧ c.bankCount * c.bankSize ≤ c.imageSize := by
  have h1 := (c.wf_iff.mp h).2.2.1
  simpa [Cfg.banksOk] using h1

theorem Cfg.kindOf_ram {c : Cfg} {seg : Nat} (h : c.kindOf seg = .ram) :
    c.segKind.any (· == .ram) = true := by
  rw [Cfg.kindOf, List.getD_eq_getElem?_getD] at h
  rcases hg : c.segKind[seg]? with _ | k
  · simp [hg] at h
  · rw [hg] at h
    obtain rfl : k = .ram := h
    exact List.any_eq_true.mpr ⟨_, List.mem_of_getElem? hg, by simp⟩

theorem Cfg.wf_kindBanks_pos {c : Cfg} (h : c.wf = true) (seg : Nat) : 0 < c.bankCountOf seg := by
  unfold Cfg.bankCountOf
  cases hk : c.kindOf seg with
  | rom => exact (wf_banks h).1
  | ram =>
    have h5 := (c.wf_iff.mp h).2.2.2.2.1
    rw [Cfg.ramOk, kindOf_ram hk] at h5
    have h1 : 1 ≤ c.ramBankCount := by simpa using h5
    exact h1

/-- R6: no segment is RAM, so there are no RAM banks. -/
theorem Cfg.wf_no_ram {c : Cfg} (h : c.wf = true) (hr : c.segKind.any (· == .ram) = false) :
    c.ramBankCount = 0 := by
  have h8 := (c.wf_iff.mp h).2.2.2.2.2.2.2
  rw [Cfg.shapeOk, hr] at h8
  simpa using (Bool.and_eq_true_iff.mp h8).2

theorem Cfg.wf_hot {c : Cfg} (h : c.wf = true) {r : HotRange} (hr : r ∈ c.hot) :
    r.lo ≤ r.hi ∧ r.hi < c.windowSize ∧ r.seg < c.nseg := by
  have h6 := (c.wf_iff.mp h).2.2.2.2.2.1
  rw [Cfg.hotOk, Bool.and_eq_true, List.all_eq_true] at h6
  have := h6.1 r hr
  simpa [HotRange.wf, and_assoc] using this

theorem Cfg.wf_hot_disjoint {c : Cfg} (h : c.wf = true) :
    c.hot.Pairwise fun a b => a.hi < b.lo ∨ b.hi < a.lo := by
  have h6 := (c.wf_iff.mp h).2.2.2.2.2.1
  rw [Cfg.hotOk, Bool.and_eq_true, decide_eq_true_eq] at h6
  exact h6.2

theorem Cfg.wf_wpReset_length {c : Cfg} (h : c.wf = true) : c.wpReset.length = c.nseg := by
  have h7 := (c.wf_iff.mp h).2.2.2.2.2.2.1
  rw [Cfg.wpOk, Bool.and_eq_true, decide_eq_true_eq] at h7
  exact h7.1

end Sys2Proof

namespace Sys2Proof.Machine

/-- A store holds all the banks of its kind (R8 (3), R30). -/
theorem banks_fit {c : Cfg} (h : c.wf = true) (seg : Nat) :
    c.bankCountOf seg * c.bankSize ≤ storeSize c (c.kindOf seg) := by
  unfold Cfg.bankCountOf
  cases c.kindOf seg with
  | rom => exact (Cfg.wf_banks h).2
  | ram => exact Nat.le_refl _

end Sys2Proof.Machine
end

