-- ==== Sys2Proof/Laws/Operands.lean ====
section
/-! SUPPORT. The operand forms: the address decoder, the hot lookup, the target bank and the staging of a stream. -/

namespace Sys2Proof.Machine

theorem decodeAddr_eq_none_iff (c : Cfg) (a : BusAddr) :
    decodeAddr c a = none ↔
      (a &&& c.mirrorMask).toNat < c.windowBase.toNat ∨
        c.windowBase.toNat + c.windowSize ≤ (a &&& c.mirrorMask).toNat := by
  unfold decodeAddr
  simp only
  split <;> simp_all

theorem decodeAddr_eq_some_iff (c : Cfg) (a : BusAddr) (off : Nat) :
    decodeAddr c a = some off ↔
      c.windowBase.toNat ≤ (a &&& c.mirrorMask).toNat ∧
        (a &&& c.mirrorMask).toNat < c.windowBase.toNat + c.windowSize ∧
        off = (a &&& c.mirrorMask).toNat - c.windowBase.toNat := by
  unfold decodeAddr
  simp only
  split
  · simp only [reduceCtorEq, false_iff]
    omega
  · rename_i h
    rw [Nat.mod_eq_of_lt (by omega), Option.some.injEq]
    omega

theorem decodeAddr_lt {c : Cfg} {a : BusAddr} {off : Nat} (h : decodeAddr c a = some off) :
    off < c.windowSize := by
  obtain ⟨_, _, rfl⟩ := (decodeAddr_eq_some_iff c a off).mp h
  omega

/-- The decoder sees an address only through the mirror mask (R64). -/
theorem decodeAddr_congr {c : Cfg} {a a' : BusAddr} (h : a &&& c.mirrorMask = a' &&& c.mirrorMask) :
    decodeAddr c a = decodeAddr c a' := by
  simp only [decodeAddr, h]

theorem hotLookup_some {c : Cfg} {off : Nat} {h : HotRange} (hh : hotLookup c off = some h) :
    HotAt c h off := by
  refine ⟨List.mem_of_find?_eq_some hh, ?_⟩
  simpa using List.find?_some hh

theorem hotLookup_none {c : Cfg} {off : Nat} (hh : hotLookup c off = none) (h : HotRange) :
    ¬ HotAt c h off := by
  rintro ⟨hm, hl⟩
  have := List.find?_eq_none.mp hh h hm
  simp at this
  omega

/-- At most one hot range holds an offset (R68). -/
theorem hotAt_unique {c : Cfg} (hw : c.wf = true) {off : Nat} {h h' : HotRange} (hh : HotAt c h off)
    (hh' : HotAt c h' off) : h = h' := by
  by_contra hne
  have hp : c.hot.Pairwise fun a b => a ≠ b → a.hi < b.lo ∨ b.hi < a.lo :=
    List.Pairwise.imp (fun {a b} (hab : a.hi < b.lo ∨ b.hi < a.lo) (_ : a ≠ b) => hab)
      (Cfg.wf_hot_disjoint hw)
  have hsymm : Std.Symm fun a b : HotRange => a ≠ b → a.hi < b.lo ∨ b.hi < a.lo :=
    ⟨fun _ _ hab hba => (hab hba.symm).symm⟩
  have hs := hp.forall_of_forall fun x _ hxx => absurd rfl hxx
  have h1 := hs hh.1 hh'.1 hne
  have h2 := hh.2
  have h3 := hh'.2
  omega

theorem hotLookup_of_hotAt {c : Cfg} (hw : c.wf = true) {off : Nat} {h : HotRange} (hh : HotAt c h off) :
    hotLookup c off = some h := by
  rcases hl : hotLookup c off with _ | h'
  · exact absurd hh (hotLookup_none hl h)
  · rw [hotAt_unique hw hh (hotLookup_some hl)]

theorem triggered_eq_some_iff (c : Cfg) (off : Nat) (w : Bool) (h : HotRange) :
    triggered c off w = some h ↔ hotLookup c off = some h ∧ triggers c h w = true := by
  simp [triggered, Option.filter_eq_some_iff]

@[simp] theorem triggers_write (c : Cfg) (h : HotRange) : triggers c h true = true := by simp [triggers]

theorem triggers_read (c : Cfg) (h : HotRange) :
    triggers c h false = true ↔ c.hotOnRead = true ∧ h.source ≠ .data := by simp [triggers]

theorem triggered_hotAt {c : Cfg} {off : Nat} {w : Bool} {h : HotRange} (ht : triggered c off w = some h) :
    HotAt c h off :=
  hotLookup_some ((triggered_eq_some_iff c off w h).mp ht).1

theorem triggered_write_eq (c : Cfg) (off : Nat) : triggered c off true = hotLookup c off := by
  simp [triggered, Option.filter]
  split <;> simp_all

theorem target_lt {c : Cfg} (hw : c.wf = true) (h : HotRange) (off : Nat) (v : Byte) :
    target c h off v < c.bankCountOf h.seg :=
  Nat.mod_lt _ (Cfg.wf_kindBanks_pos hw h.seg)

/-- The segment of an offset of the window is one of the segments (R34). -/
theorem segOf_lt {c : Cfg} (hw : c.wf = true) {off : Nat} (h : off < c.windowSize) : segOf c off < c.nseg := by
  obtain ⟨_, _, h3⟩ := Cfg.wf_sizes hw
  exact Nat.div_lt_of_lt_mul (by rw [Nat.mul_comm]; omega)

theorem readInts_spec (n : Nat) (fs : List Field) (ns : List Nat) (rest : List Field) :
    readInts n fs = some (ns, rest) ↔ ns.length = n ∧ fs = ns.map Field.int ++ rest := by
  induction n generalizing fs ns with
  | zero =>
    simp only [readInts, Option.some.injEq, Prod.mk.injEq, List.length_eq_zero_iff]
    constructor
    · rintro ⟨rfl, rfl⟩; simp
    · rintro ⟨rfl, rfl⟩; simp
  | succ n ih =>
    cases fs with
    | nil => cases ns <;> simp [readInts]
    | cons f fs =>
      cases f with
      | bool b => cases ns <;> simp [readInts]
      | int k =>
        cases ns with
        | nil => simp [readInts]
        | cons m ns =>
          simp only [readInts, Option.map_eq_some_iff, Prod.mk.injEq, Prod.exists, List.cons.injEq]
          constructor
          · rintro ⟨l, r, hr, ⟨rfl, rfl⟩, rfl⟩
            obtain ⟨h1, h2⟩ := (ih fs l).mp hr
            simp [h1, h2]
          · rintro ⟨h1, h2⟩
            simp only [List.map_cons, List.cons_append, List.cons.injEq, Field.int.injEq] at h2
            exact ⟨ns, rest, (ih fs ns).mpr ⟨by simpa using h1, h2.2⟩, ⟨h2.1, rfl⟩, rfl⟩

theorem readBools_spec (n : Nat) (fs : List Field) (bs : List Bool) (rest : List Field) :
    readBools n fs = some (bs, rest) ↔ bs.length = n ∧ fs = bs.map Field.bool ++ rest := by
  induction n generalizing fs bs with
  | zero =>
    simp only [readBools, Option.some.injEq, Prod.mk.injEq, List.length_eq_zero_iff]
    constructor
    · rintro ⟨rfl, rfl⟩; simp
    · rintro ⟨rfl, rfl⟩; simp
  | succ n ih =>
    cases fs with
    | nil => cases bs <;> simp [readBools]
    | cons f fs =>
      cases f with
      | int k => cases bs <;> simp [readBools]
      | bool k =>
        cases bs with
        | nil => simp [readBools]
        | cons m bs =>
          simp only [readBools, Option.map_eq_some_iff, Prod.mk.injEq, Prod.exists, List.cons.injEq]
          constructor
          · rintro ⟨l, r, hr, ⟨rfl, rfl⟩, rfl⟩
            obtain ⟨h1, h2⟩ := (ih fs l).mp hr
            simp [h1, h2]
          · rintro ⟨h1, h2⟩
            simp only [List.map_cons, List.cons_append, List.cons.injEq, Field.bool.injEq] at h2
            exact ⟨bs, rest, (ih fs bs).mpr ⟨by simpa using h1, h2.2⟩, ⟨h2.1, rfl⟩, rfl⟩

/-- What the staging half of `LOAD` accepts, and what it stages (R105, R109, R112). -/
theorem stage_eq_some_iff (c : Cfg) (fs : List Field) (b : BankState) (rest : List Field) :
    stage c fs = some (b, rest) ↔
      b.banks.length = c.nseg ∧ b.wp.length = (if c.hasWp then c.nseg else 0) ∧
        fs = b.banks.map Field.int ++ (b.wp.map Field.bool ++ (Field.bool b.locked :: rest)) := by
  unfold stage
  obtain ⟨banks, wp, l⟩ := b
  constructor
  · intro h
    split at h
    · simp at h
    · rename_i banks' fs1 h1
      obtain ⟨h1a, rfl⟩ := (readInts_spec _ _ _ _).mp h1
      split at h
      · rename_i wp' l' rest' h2
        simp only [Option.some.injEq, Prod.mk.injEq, BankState.mk.injEq] at h
        obtain ⟨⟨rfl, rfl, rfl⟩, rfl⟩ := h
        refine ⟨h1a, ?_⟩
        split at h2
        · obtain ⟨h2a, rfl⟩ := (readBools_spec _ _ _ _).mp h2
          simp_all
        · simp only [Option.some.injEq, Prod.mk.injEq] at h2
          obtain ⟨rfl, rfl⟩ := h2
          simp_all
      · simp at h
  · rintro ⟨h1, h2, rfl⟩
    have e1 := (readInts_spec c.nseg _ banks (wp.map Field.bool ++ (Field.bool l :: rest))).mpr ⟨h1, rfl⟩
    simp only [e1]
    split at h2
    · rename_i hw
      have e2 := (readBools_spec c.nseg _ wp (Field.bool l :: rest)).mpr ⟨h2, rfl⟩
      simp [hw, e2]
    · rename_i hw
      obtain rfl := List.length_eq_zero_iff.mp h2
      simp [hw]

end Sys2Proof.Machine
end

