-- ==== Sys2Proof/Laws/State.lean ====
section
/-! SUPPORT. One lemma per field of `State` and per register update: what the field holds afterwards. -/

namespace Sys2Proof.Machine

variable (s : State)

/-! `setBank` -/

@[simp] theorem State.setBank_cfg (seg b : Nat) : (s.setBank seg b).cfg = s.cfg := rfl
@[simp] theorem State.setBank_configured (seg b : Nat) : (s.setBank seg b).configured = s.configured := rfl
@[simp] theorem State.setBank_currentBank (seg b : Nat) : (s.setBank seg b).currentBank = s.currentBank.set seg b := rfl
@[simp] theorem State.setBank_locked (seg b : Nat) : (s.setBank seg b).locked = s.locked := rfl
@[simp] theorem State.setBank_wp (seg b : Nat) : (s.setBank seg b).wp = s.wp := rfl
@[simp] theorem State.setBank_quirk (seg b : Nat) : (s.setBank seg b).quirk = s.quirk := rfl
@[simp] theorem State.setBank_ram (seg b : Nat) : (s.setBank seg b).ram = s.ram := rfl
@[simp] theorem State.setBank_pending (seg b : Nat) : (s.setBank seg b).pending = s.pending := rfl
@[simp] theorem State.setBank_ports (seg b : Nat) : (s.setBank seg b).ports = s.ports := rfl
@[simp] theorem State.setBank_response (seg b : Nat) : (s.setBank seg b).response = s.response := rfl
@[simp] theorem State.setBank_ramDraw (seg b : Nat) : (s.setBank seg b).ramDraw = s.ramDraw := rfl
@[simp] theorem State.setBank_draws (seg b : Nat) : (s.setBank seg b).draws = s.draws := rfl

/-! `setBanks` -/

@[simp] theorem State.setBanks_cfg (l : List Nat) : (s.setBanks l).cfg = s.cfg := rfl
@[simp] theorem State.setBanks_configured (l : List Nat) : (s.setBanks l).configured = s.configured := rfl
@[simp] theorem State.setBanks_currentBank (l : List Nat) : (s.setBanks l).currentBank = l := rfl
@[simp] theorem State.setBanks_locked (l : List Nat) : (s.setBanks l).locked = s.locked := rfl
@[simp] theorem State.setBanks_wp (l : List Nat) : (s.setBanks l).wp = s.wp := rfl
@[simp] theorem State.setBanks_quirk (l : List Nat) : (s.setBanks l).quirk = s.quirk := rfl
@[simp] theorem State.setBanks_ram (l : List Nat) : (s.setBanks l).ram = s.ram := rfl
@[simp] theorem State.setBanks_pending (l : List Nat) : (s.setBanks l).pending = s.pending := rfl
@[simp] theorem State.setBanks_ports (l : List Nat) : (s.setBanks l).ports = s.ports := rfl
@[simp] theorem State.setBanks_response (l : List Nat) : (s.setBanks l).response = s.response := rfl
@[simp] theorem State.setBanks_ramDraw (l : List Nat) : (s.setBanks l).ramDraw = s.ramDraw := rfl
@[simp] theorem State.setBanks_draws (l : List Nat) : (s.setBanks l).draws = s.draws := rfl

/-! `setLocked` -/

@[simp] theorem State.setLocked_cfg (b : Bool) : (s.setLocked b).cfg = s.cfg := rfl
@[simp] theorem State.setLocked_configured (b : Bool) : (s.setLocked b).configured = s.configured := rfl
@[simp] theorem State.setLocked_currentBank (b : Bool) : (s.setLocked b).currentBank = s.currentBank := rfl
@[simp] theorem State.setLocked_locked (b : Bool) : (s.setLocked b).locked = b := rfl
@[simp] theorem State.setLocked_wp (b : Bool) : (s.setLocked b).wp = s.wp := rfl
@[simp] theorem State.setLocked_quirk (b : Bool) : (s.setLocked b).quirk = s.quirk := rfl
@[simp] theorem State.setLocked_ram (b : Bool) : (s.setLocked b).ram = s.ram := rfl
@[simp] theorem State.setLocked_pending (b : Bool) : (s.setLocked b).pending = s.pending := rfl
@[simp] theorem State.setLocked_ports (b : Bool) : (s.setLocked b).ports = s.ports := rfl
@[simp] theorem State.setLocked_response (b : Bool) : (s.setLocked b).response = s.response := rfl
@[simp] theorem State.setLocked_ramDraw (b : Bool) : (s.setLocked b).ramDraw = s.ramDraw := rfl
@[simp] theorem State.setLocked_draws (b : Bool) : (s.setLocked b).draws = s.draws := rfl

/-! `setWp` -/

@[simp] theorem State.setWp_cfg (l : List Bool) : (s.setWp l).cfg = s.cfg := rfl
@[simp] theorem State.setWp_configured (l : List Bool) : (s.setWp l).configured = s.configured := rfl
@[simp] theorem State.setWp_currentBank (l : List Bool) : (s.setWp l).currentBank = s.currentBank := rfl
@[simp] theorem State.setWp_locked (l : List Bool) : (s.setWp l).locked = s.locked := rfl
@[simp] theorem State.setWp_wp (l : List Bool) : (s.setWp l).wp = l := rfl
@[simp] theorem State.setWp_quirk (l : List Bool) : (s.setWp l).quirk = s.quirk := rfl
@[simp] theorem State.setWp_ram (l : List Bool) : (s.setWp l).ram = s.ram := rfl
@[simp] theorem State.setWp_pending (l : List Bool) : (s.setWp l).pending = s.pending := rfl
@[simp] theorem State.setWp_ports (l : List Bool) : (s.setWp l).ports = s.ports := rfl
@[simp] theorem State.setWp_response (l : List Bool) : (s.setWp l).response = s.response := rfl
@[simp] theorem State.setWp_ramDraw (l : List Bool) : (s.setWp l).ramDraw = s.ramDraw := rfl
@[simp] theorem State.setWp_draws (l : List Bool) : (s.setWp l).draws = s.draws := rfl

/-! `setQuirk` -/

@[simp] theorem State.setQuirk_cfg (b : Bool) : (s.setQuirk b).cfg = s.cfg := rfl
@[simp] theorem State.setQuirk_configured (b : Bool) : (s.setQuirk b).configured = s.configured := rfl
@[simp] theorem State.setQuirk_currentBank (b : Bool) : (s.setQuirk b).currentBank = s.currentBank := rfl
@[simp] theorem State.setQuirk_locked (b : Bool) : (s.setQuirk b).locked = s.locked := rfl
@[simp] theorem State.setQuirk_wp (b : Bool) : (s.setQuirk b).wp = s.wp := rfl
@[simp] theorem State.setQuirk_quirk (b : Bool) : (s.setQuirk b).quirk = b := rfl
@[simp] theorem State.setQuirk_ram (b : Bool) : (s.setQuirk b).ram = s.ram := rfl
@[simp] theorem State.setQuirk_pending (b : Bool) : (s.setQuirk b).pending = s.pending := rfl
@[simp] theorem State.setQuirk_ports (b : Bool) : (s.setQuirk b).ports = s.ports := rfl
@[simp] theorem State.setQuirk_response (b : Bool) : (s.setQuirk b).response = s.response := rfl
@[simp] theorem State.setQuirk_ramDraw (b : Bool) : (s.setQuirk b).ramDraw = s.ramDraw := rfl
@[simp] theorem State.setQuirk_draws (b : Bool) : (s.setQuirk b).draws = s.draws := rfl

/-! `writeRam` -/

@[simp] theorem State.writeRam_cfg (i : Nat) (v : Byte) : (s.writeRam i v).cfg = s.cfg := rfl
@[simp] theorem State.writeRam_configured (i : Nat) (v : Byte) : (s.writeRam i v).configured = s.configured := rfl
@[simp] theorem State.writeRam_currentBank (i : Nat) (v : Byte) : (s.writeRam i v).currentBank = s.currentBank := rfl
@[simp] theorem State.writeRam_locked (i : Nat) (v : Byte) : (s.writeRam i v).locked = s.locked := rfl
@[simp] theorem State.writeRam_wp (i : Nat) (v : Byte) : (s.writeRam i v).wp = s.wp := rfl
@[simp] theorem State.writeRam_quirk (i : Nat) (v : Byte) : (s.writeRam i v).quirk = s.quirk := rfl
@[simp] theorem State.writeRam_ram (i : Nat) (v : Byte) : (s.writeRam i v).ram = writeMem s.ram i v := rfl
@[simp] theorem State.writeRam_pending (i : Nat) (v : Byte) : (s.writeRam i v).pending = s.pending := rfl
@[simp] theorem State.writeRam_ports (i : Nat) (v : Byte) : (s.writeRam i v).ports = s.ports := rfl
@[simp] theorem State.writeRam_response (i : Nat) (v : Byte) : (s.writeRam i v).response = s.response := rfl
@[simp] theorem State.writeRam_ramDraw (i : Nat) (v : Byte) : (s.writeRam i v).ramDraw = s.ramDraw := rfl
@[simp] theorem State.writeRam_draws (i : Nat) (v : Byte) : (s.writeRam i v).draws = s.draws := rfl

/-! `setInStream` -/

@[simp] theorem State.setInStream_cfg (fs : List Field) : (s.setInStream fs).cfg = s.cfg := rfl
@[simp] theorem State.setInStream_configured (fs : List Field) : (s.setInStream fs).configured = s.configured := rfl
@[simp] theorem State.setInStream_currentBank (fs : List Field) : (s.setInStream fs).currentBank = s.currentBank := rfl
@[simp] theorem State.setInStream_locked (fs : List Field) : (s.setInStream fs).locked = s.locked := rfl
@[simp] theorem State.setInStream_wp (fs : List Field) : (s.setInStream fs).wp = s.wp := rfl
@[simp] theorem State.setInStream_quirk (fs : List Field) : (s.setInStream fs).quirk = s.quirk := rfl
@[simp] theorem State.setInStream_ram (fs : List Field) : (s.setInStream fs).ram = s.ram := rfl
@[simp] theorem State.setInStream_pending (fs : List Field) : (s.setInStream fs).pending = s.pending := rfl
@[simp] theorem State.setInStream_ports (fs : List Field) : (s.setInStream fs).ports = { s.ports with inStream := fs } := rfl
@[simp] theorem State.setInStream_response (fs : List Field) : (s.setInStream fs).response = s.response := rfl
@[simp] theorem State.setInStream_ramDraw (fs : List Field) : (s.setInStream fs).ramDraw = s.ramDraw := rfl
@[simp] theorem State.setInStream_draws (fs : List Field) : (s.setInStream fs).draws = s.draws := rfl

/-! `setOutStream` -/

@[simp] theorem State.setOutStream_cfg (fs : List Field) : (s.setOutStream fs).cfg = s.cfg := rfl
@[simp] theorem State.setOutStream_configured (fs : List Field) : (s.setOutStream fs).configured = s.configured := rfl
@[simp] theorem State.setOutStream_currentBank (fs : List Field) : (s.setOutStream fs).currentBank = s.currentBank := rfl
@[simp] theorem State.setOutStream_locked (fs : List Field) : (s.setOutStream fs).locked = s.locked := rfl
@[simp] theorem State.setOutStream_wp (fs : List Field) : (s.setOutStream fs).wp = s.wp := rfl
@[simp] theorem State.setOutStream_quirk (fs : List Field) : (s.setOutStream fs).quirk = s.quirk := rfl
@[simp] theorem State.setOutStream_ram (fs : List Field) : (s.setOutStream fs).ram = s.ram := rfl
@[simp] theorem State.setOutStream_pending (fs : List Field) : (s.setOutStream fs).pending = s.pending := rfl
@[simp] theorem State.setOutStream_ports (fs : List Field) : (s.setOutStream fs).ports = { s.ports with outStream := fs } := rfl
@[simp] theorem State.setOutStream_response (fs : List Field) : (s.setOutStream fs).response = s.response := rfl
@[simp] theorem State.setOutStream_ramDraw (fs : List Field) : (s.setOutStream fs).ramDraw = s.ramDraw := rfl
@[simp] theorem State.setOutStream_draws (fs : List Field) : (s.setOutStream fs).draws = s.draws := rfl

/-! `nextDraw` -/

@[simp] theorem State.nextDraw_cfg : (s.nextDraw).cfg = s.cfg := rfl
@[simp] theorem State.nextDraw_configured : (s.nextDraw).configured = s.configured := rfl
@[simp] theorem State.nextDraw_currentBank : (s.nextDraw).currentBank = s.currentBank := rfl
@[simp] theorem State.nextDraw_locked : (s.nextDraw).locked = s.locked := rfl
@[simp] theorem State.nextDraw_wp : (s.nextDraw).wp = s.wp := rfl
@[simp] theorem State.nextDraw_quirk : (s.nextDraw).quirk = s.quirk := rfl
@[simp] theorem State.nextDraw_ram : (s.nextDraw).ram = s.ram := rfl
@[simp] theorem State.nextDraw_pending : (s.nextDraw).pending = s.pending := rfl
@[simp] theorem State.nextDraw_ports : (s.nextDraw).ports = s.ports := rfl
@[simp] theorem State.nextDraw_response : (s.nextDraw).response = s.response := rfl
@[simp] theorem State.nextDraw_ramDraw : (s.nextDraw).ramDraw = s.ramDraw := rfl
@[simp] theorem State.nextDraw_draws : (s.nextDraw).draws = s.draws + 1 := rfl

/-! `issue` -/

@[simp] theorem State.issue_cfg (r : Request) (rest : List Request) : (s.issue r rest).cfg = s.cfg := rfl
@[simp] theorem State.issue_configured (r : Request) (rest : List Request) : (s.issue r rest).configured = s.configured := rfl
@[simp] theorem State.issue_currentBank (r : Request) (rest : List Request) : (s.issue r rest).currentBank = s.currentBank := rfl
@[simp] theorem State.issue_locked (r : Request) (rest : List Request) : (s.issue r rest).locked = s.locked := rfl
@[simp] theorem State.issue_wp (r : Request) (rest : List Request) : (s.issue r rest).wp = s.wp := rfl
@[simp] theorem State.issue_quirk (r : Request) (rest : List Request) : (s.issue r rest).quirk = s.quirk := rfl
@[simp] theorem State.issue_ram (r : Request) (rest : List Request) : (s.issue r rest).ram = s.ram := rfl
@[simp] theorem State.issue_pending (r : Request) (rest : List Request) : (s.issue r rest).pending = rest := rfl
@[simp] theorem State.issue_ports (r : Request) (rest : List Request) : (s.issue r rest).ports = r.ports := rfl
@[simp] theorem State.issue_response (r : Request) (rest : List Request) : (s.issue r rest).response = s.response := rfl
@[simp] theorem State.issue_ramDraw (r : Request) (rest : List Request) : (s.issue r rest).ramDraw = s.ramDraw := rfl
@[simp] theorem State.issue_draws (r : Request) (rest : List Request) : (s.issue r rest).draws = s.draws := rfl

/-! `respond` -/

@[simp] theorem State.respond_cfg (o : Status) (d : Result) : (s.respond o d).cfg = s.cfg := rfl
@[simp] theorem State.respond_configured (o : Status) (d : Result) : (s.respond o d).configured = s.configured := rfl
@[simp] theorem State.respond_currentBank (o : Status) (d : Result) : (s.respond o d).currentBank = s.currentBank := rfl
@[simp] theorem State.respond_locked (o : Status) (d : Result) : (s.respond o d).locked = s.locked := rfl
@[simp] theorem State.respond_wp (o : Status) (d : Result) : (s.respond o d).wp = s.wp := rfl
@[simp] theorem State.respond_quirk (o : Status) (d : Result) : (s.respond o d).quirk = s.quirk := rfl
@[simp] theorem State.respond_ram (o : Status) (d : Result) : (s.respond o d).ram = s.ram := rfl
@[simp] theorem State.respond_pending (o : Status) (d : Result) : (s.respond o d).pending = s.pending := rfl
@[simp] theorem State.respond_ports (o : Status) (d : Result) : (s.respond o d).ports = s.ports := rfl
@[simp] theorem State.respond_response (o : Status) (d : Result) : (s.respond o d).response = ⟨o, d⟩ := rfl
@[simp] theorem State.respond_ramDraw (o : Status) (d : Result) : (s.respond o d).ramDraw = s.ramDraw := rfl
@[simp] theorem State.respond_draws (o : Status) (d : Result) : (s.respond o d).draws = s.draws := rfl

/-! `succeed` -/

@[simp] theorem State.succeed_cfg (d : Result) : (s.succeed d).cfg = s.cfg := rfl
@[simp] theorem State.succeed_configured (d : Result) : (s.succeed d).configured = s.configured := rfl
@[simp] theorem State.succeed_currentBank (d : Result) : (s.succeed d).currentBank = s.currentBank := rfl
@[simp] theorem State.succeed_locked (d : Result) : (s.succeed d).locked = s.locked := rfl
@[simp] theorem State.succeed_wp (d : Result) : (s.succeed d).wp = s.wp := rfl
@[simp] theorem State.succeed_quirk (d : Result) : (s.succeed d).quirk = s.quirk := rfl
@[simp] theorem State.succeed_ram (d : Result) : (s.succeed d).ram = s.ram := rfl
@[simp] theorem State.succeed_pending (d : Result) : (s.succeed d).pending = s.pending := rfl
@[simp] theorem State.succeed_ports (d : Result) : (s.succeed d).ports = s.ports := rfl
@[simp] theorem State.succeed_response (d : Result) : (s.succeed d).response = ⟨.ok, d⟩ := rfl
@[simp] theorem State.succeed_ramDraw (d : Result) : (s.succeed d).ramDraw = s.ramDraw := rfl
@[simp] theorem State.succeed_draws (d : Result) : (s.succeed d).draws = s.draws := rfl

/-! `raise` -/

@[simp] theorem State.raise_cfg (o : Status) : (s.raise o).cfg = s.cfg := rfl
@[simp] theorem State.raise_configured (o : Status) : (s.raise o).configured = s.configured := rfl
@[simp] theorem State.raise_currentBank (o : Status) : (s.raise o).currentBank = s.currentBank := rfl
@[simp] theorem State.raise_locked (o : Status) : (s.raise o).locked = s.locked := rfl
@[simp] theorem State.raise_wp (o : Status) : (s.raise o).wp = s.wp := rfl
@[simp] theorem State.raise_quirk (o : Status) : (s.raise o).quirk = s.quirk := rfl
@[simp] theorem State.raise_ram (o : Status) : (s.raise o).ram = s.ram := rfl
@[simp] theorem State.raise_pending (o : Status) : (s.raise o).pending = s.pending := rfl
@[simp] theorem State.raise_ports (o : Status) : (s.raise o).ports = s.ports := rfl
@[simp] theorem State.raise_response (o : Status) : (s.raise o).response = ⟨o, .nothing⟩ := rfl
@[simp] theorem State.raise_ramDraw (o : Status) : (s.raise o).ramDraw = s.ramDraw := rfl
@[simp] theorem State.raise_draws (o : Status) : (s.raise o).draws = s.draws := rfl

/-! `applyReset` -/

@[simp] theorem State.applyReset_cfg (b : Bool) : (s.applyReset b).cfg = s.cfg := rfl
@[simp] theorem State.applyReset_configured (b : Bool) : (s.applyReset b).configured = s.configured := rfl
@[simp] theorem State.applyReset_currentBank (b : Bool) : (s.applyReset b).currentBank = List.replicate s.cfg.nseg 0 := rfl
@[simp] theorem State.applyReset_locked (b : Bool) : (s.applyReset b).locked = false := rfl
@[simp] theorem State.applyReset_wp (b : Bool) : (s.applyReset b).wp = wpAtReset s.cfg := rfl
@[simp] theorem State.applyReset_quirk (b : Bool) : (s.applyReset b).quirk = b := rfl
@[simp] theorem State.applyReset_ram (b : Bool) : (s.applyReset b).ram = s.ram := rfl
@[simp] theorem State.applyReset_pending (b : Bool) : (s.applyReset b).pending = s.pending := rfl
@[simp] theorem State.applyReset_ports (b : Bool) : (s.applyReset b).ports = s.ports := rfl
@[simp] theorem State.applyReset_response (b : Bool) : (s.applyReset b).response = s.response := rfl
@[simp] theorem State.applyReset_ramDraw (b : Bool) : (s.applyReset b).ramDraw = s.ramDraw := rfl
@[simp] theorem State.applyReset_draws (b : Bool) : (s.applyReset b).draws = s.draws := rfl

/-! `commit` -/

@[simp] theorem State.commit_cfg (b : BankState) : (s.commit b).cfg = s.cfg := rfl
@[simp] theorem State.commit_configured (b : BankState) : (s.commit b).configured = s.configured := rfl
@[simp] theorem State.commit_currentBank (b : BankState) : (s.commit b).currentBank = reduceBanks s.cfg b.banks := rfl
@[simp] theorem State.commit_locked (b : BankState) : (s.commit b).locked = b.locked := rfl
@[simp] theorem State.commit_wp (b : BankState) : (s.commit b).wp = if s.cfg.hasWp then b.wp else s.wp := rfl
@[simp] theorem State.commit_quirk (b : BankState) : (s.commit b).quirk = s.quirk := rfl
@[simp] theorem State.commit_ram (b : BankState) : (s.commit b).ram = s.ram := rfl
@[simp] theorem State.commit_pending (b : BankState) : (s.commit b).pending = s.pending := rfl
@[simp] theorem State.commit_ports (b : BankState) : (s.commit b).ports = s.ports := rfl
@[simp] theorem State.commit_response (b : BankState) : (s.commit b).response = s.response := rfl
@[simp] theorem State.commit_ramDraw (b : BankState) : (s.commit b).ramDraw = s.ramDraw := rfl
@[simp] theorem State.commit_draws (b : BankState) : (s.commit b).draws = s.draws := rfl

end Sys2Proof.Machine
end

