-- ==== Sys2Proof/Laws/Access.lean ====
section
/-! SUPPORT. The stages of an access: everything the selector can do, what it leaves alone, that it keeps the
invariant, and that the data phase stays inside the store. -/

namespace Sys2Proof.Machine

/-! What the invariant says of a configured block, part by part. -/

section
variable {s : State} (h : s.Inv) (hc : s.configured = true)
include h hc

theorem Inv.wf : s.cfg.wf = true := (h.2 hc).1
theorem Inv.banks_length : s.currentBank.length = s.cfg.nseg := (h.2 hc).2.1
theorem Inv.wp_length : s.wp.length = (if s.cfg.hasWp then s.cfg.nseg else 0) := (h.2 hc).2.2.1
theorem Inv.bank_lt {seg : Nat} (hs : seg < s.cfg.nseg) : s.bankAt seg < s.cfg.bankCountOf seg :=
  (h.2 hc).2.2.2.1 seg hs
theorem Inv.ram_within : s.ram.within (s.cfg.ramBankCount * s.cfg.bankSize) = true := (h.2 hc).2.2.2.2

end

/-! The bank registers. -/

theorem bankAt_setBank (s : State) (seg seg' t : Nat) :
    (s.setBank seg t).bankAt seg' =
      if seg' = seg ∧ seg < s.currentBank.length then t else s.bankAt seg' := by
  simp only [State.bankAt, State.setBank, List.getD_eq_getElem?_getD, List.getElem?_set]
  by_cases h : seg = seg'
  · subst h
    by_cases hl : seg < s.currentBank.length
    · simp [hl]
    · simp [hl]
  · simp [h, Ne.symm h]

@[simp] theorem bankAt_setLocked (s : State) (b : Bool) (seg : Nat) :
    (s.setLocked b).bankAt seg = s.bankAt seg := rfl

@[simp] theorem bankAt_writeRam (s : State) (i : Nat) (v : Byte) (seg : Nat) :
    (s.writeRam i v).bankAt seg = s.bankAt seg := rfl

@[simp] theorem bankAt_succeed (s : State) (d : Result) (seg : Nat) :
    (s.succeed d).bankAt seg = s.bankAt seg := rfl

@[simp] theorem bankAt_raise (s : State) (o : Status) (seg : Nat) :
    (s.raise o).bankAt seg = s.bankAt seg := rfl

theorem bankAt_commit (s : State) (b : BankState) {seg : Nat} (h : seg < b.banks.length) :
    (s.commit b).bankAt seg = b.banks[seg] % s.cfg.bankCountOf seg := by
  simp [State.bankAt, reduceBanks, List.getD_eq_getElem?_getD, h]

theorem bankAt_applyReset (s : State) (b : Bool) (seg : Nat) : (s.applyReset b).bankAt seg = 0 := by
  simp only [State.bankAt, State.applyReset_currentBank, List.getD_eq_getElem?_getD,
    List.getElem?_replicate]
  split <;> rfl

/-! The switch and the selector (R71): everything they can do. -/

theorem switchBank_cases (s : State) (seg t : Nat) :
    ((s.locked = true ∨ t = s.bankAt seg) ∧ switchBank s seg t = s) ∨
    (s.locked = false ∧ t ≠ s.bankAt seg ∧
      ((setsLock s.effPolicy t = true ∧ switchBank s seg t = (s.setBank seg t).setLocked true) ∨
       (setsLock s.effPolicy t = false ∧ switchBank s seg t = s.setBank seg t))) := by
  unfold switchBank
  by_cases hl : s.locked = true
  · simp [hl]
  · have hl' : s.locked = false := by simpa using hl
    by_cases ht : t = s.bankAt seg
    · simp [hl', ht]
    · by_cases hs : setsLock s.effPolicy t = true
      · simp [hl', ht, hs]
      · have hs' : setsLock s.effPolicy t = false := by simpa using hs
        simp [hl', ht, hs']

theorem select_cases (s : State) (off : Nat) (w : Bool) (v : Byte) :
    (select s off w v = s ∧ triggered s.cfg off w = none) ∨
    (∃ h, triggered s.cfg off w = some h ∧
      select s off w v = switchBank s h.seg (target s.cfg h off v)) := by
  unfold select
  rcases triggered s.cfg off w with _ | h
  · exact .inl ⟨rfl, rfl⟩
  · exact .inr ⟨h, rfl, rfl⟩

/-- When a switch sets `locked` (R20, R74, R77, R78). -/
theorem setsLock_effPolicy (s : State) (t : Nat) :
    setsLock s.effPolicy t = decide (s.quirk = true ∧ s.cfg.lockPolicy ≠ .none ∧ t ≠ 0) := by
  unfold State.effPolicy
  cases s.quirk <;> cases s.cfg.lockPolicy <;> simp [setsLock]

theorem select_none {s : State} {off : Nat} {w : Bool} (v : Byte) (h : triggered s.cfg off w = none) :
    select s off w v = s := by
  simp [select, h]

theorem select_some {s : State} {off : Nat} {w : Bool} {h : HotRange} (v : Byte)
    (ht : triggered s.cfg off w = some h) :
    select s off w v = switchBank s h.seg (target s.cfg h off v) := by
  simp [select, ht]

/-- The selector changes bank registers and `locked` only (R71). -/
theorem select_eq (s : State) (off : Nat) (w : Bool) (v : Byte) :
    select s off w v =
      { s with currentBank := (select s off w v).currentBank, locked := (select s off w v).locked } := by
  rcases select_cases s off w v with ⟨h, _⟩ | ⟨h, _, he⟩
  · rw [h]
  · rw [he]
    rcases switchBank_cases s h.seg (target s.cfg h off v) with ⟨_, h⟩ | ⟨_, _, ⟨_, h⟩ | ⟨_, h⟩⟩ <;>
      rw [h] <;> rfl

section
variable (s : State) (off : Nat) (w : Bool) (v : Byte)

@[simp] theorem select_cfg : (select s off w v).cfg = s.cfg := by rw [select_eq]
@[simp] theorem select_configured : (select s off w v).configured = s.configured := by rw [select_eq]
@[simp] theorem select_wp : (select s off w v).wp = s.wp := by rw [select_eq]
@[simp] theorem select_quirk : (select s off w v).quirk = s.quirk := by rw [select_eq]
@[simp] theorem select_ram : (select s off w v).ram = s.ram := by rw [select_eq]
@[simp] theorem select_pending : (select s off w v).pending = s.pending := by rw [select_eq]
@[simp] theorem select_ports : (select s off w v).ports = s.ports := by rw [select_eq]
@[simp] theorem select_response : (select s off w v).response = s.response := by rw [select_eq]
@[simp] theorem select_ramDraw : (select s off w v).ramDraw = s.ramDraw := by rw [select_eq]
@[simp] theorem select_draws : (select s off w v).draws = s.draws := by rw [select_eq]

end

/-- A locked block switches nothing (R73). -/
theorem select_locked {s : State} (hl : s.locked = true) (off : Nat) (w : Bool) (v : Byte) :
    select s off w v = s := by
  rcases select_cases s off w v with ⟨h, _⟩ | ⟨h, _, he⟩
  · exact h
  · rw [he]
    simp [switchBank, hl]

/-- The selector keeps the invariant (R15). -/
theorem select_inv {s : State} (h : s.Inv) (off : Nat) (w : Bool) (v : Byte) : (select s off w v).Inv := by
  refine ⟨by simpa using h.1, fun hc => ?_⟩
  rw [select_configured] at hc
  obtain ⟨h1, h2, h3, h4, h5⟩ := h.2 hc
  rcases select_cases s off w v with ⟨he, _⟩ | ⟨r, ht, he⟩
  · rw [he]
    exact h.2 hc
  · have hseg : r.seg < s.cfg.nseg := (Cfg.wf_hot h1 (triggered_hotAt ht).1).2.2
    have hset : ∀ seg < s.cfg.nseg,
        (s.setBank r.seg (target s.cfg r off v)).bankAt seg < s.cfg.bankCountOf seg := by
      intro seg hs
      rw [bankAt_setBank]
      split
      · rename_i hh
        rw [hh.1]
        exact target_lt h1 r off v
      · exact h4 seg hs
    rw [he]
    rcases switchBank_cases s r.seg (target s.cfg r off v) with ⟨_, hh⟩ | ⟨_, _, ⟨_, hh⟩ | ⟨_, hh⟩⟩ <;> rw [hh]
    · exact h.2 hc
    · exact ⟨h1, by simpa using h2, h3, hset, h5⟩
    · exact ⟨h1, by simpa using h2, h3, hset, h5⟩

/-! The data phase. -/

/-- The physical index is inside its bank range (R36). -/
theorem phys_lt {s : State} (h : s.Inv) (hc : s.configured = true) {off : Nat} (ho : off < s.cfg.windowSize) :
    phys s off < s.cfg.bankCountOf (segOf s.cfg off) * s.cfg.bankSize := by
  have hw := Inv.wf h hc
  obtain ⟨_, hb, _⟩ := Cfg.wf_sizes hw
  have h1 := Inv.bank_lt h hc (segOf_lt hw ho)
  have h2 : segOffset s.cfg off < s.cfg.bankSize := Nat.mod_lt _ hb
  calc phys s off < s.bankAt (segOf s.cfg off) * s.cfg.bankSize + s.cfg.bankSize := Nat.add_lt_add_left h2 _
    _ = (s.bankAt (segOf s.cfg off) + 1) * s.cfg.bankSize := (Nat.succ_mul _ _).symm
    _ ≤ _ := Nat.mul_le_mul_right _ h1

theorem phys_lt_storeSize {s : State} (h : s.Inv) (hc : s.configured = true) {off : Nat}
    (ho : off < s.cfg.windowSize) : phys s off < storeSize s.cfg (kindAt s.cfg off) :=
  Nat.lt_of_lt_of_le (phys_lt h hc ho) (banks_fit (Inv.wf h hc) _)

theorem load8_eq {s : State} (h : s.Inv) (hc : s.configured = true) {off : Nat} (ho : off < s.cfg.windowSize) :
    load8 s off = some (byteAt s (kindAt s.cfg off) (phys s off)) := by
  simp [load8, resolve, phys_lt_storeSize h hc ho]

theorem answerByte_eq {s : State} (h : s.Inv) (hc : s.configured = true) {off : Nat}
    (ho : off < s.cfg.windowSize) :
    answerByte s off = .next (s.succeed (.byte (byteAt s (kindAt s.cfg off) (phys s off)))) := by
  simp [answerByte, load8_eq h hc ho]

/-- Everything an answered access did after its stages. -/
theorem answerByte_next {s t : State} {off : Nat} (h : answerByte s off = .next t) :
    ∃ b, load8 s off = some b ∧ t = s.succeed (.byte b) := by
  unfold answerByte at h
  split at h
  · exact ⟨_, ‹_›, by simpa using h.symm⟩
  · simp at h

theorem storeIndex_eq_some_iff (s : State) (off i : Nat) :
    storeIndex s off = some i ↔
      kindAt s.cfg off = .ram ∧ s.wpAt (segOf s.cfg off) = false ∧ phys s off = i := by
  unfold storeIndex resolve
  cases kindAt s.cfg off <;> cases hp : s.wpAt (segOf s.cfg off) <;> simp [hp]

theorem storeIndex_eq_none_iff (s : State) (off : Nat) :
    storeIndex s off = none ↔ kindAt s.cfg off = .rom ∨ s.wpAt (segOf s.cfg off) = true := by
  unfold storeIndex resolve
  cases kindAt s.cfg off <;> cases hp : s.wpAt (segOf s.cfg off) <;> simp [hp]

/-- Everything a store can do (R83). -/
theorem store8_cases {s t : State} {off : Nat} {v : Byte} (h : store8 s off v = some t) :
    (storeIndex s off = none ∧ t = s) ∨
    (∃ i, storeIndex s off = some i ∧ i < storeSize s.cfg .ram ∧ t = s.writeRam i v) := by
  unfold store8 at h
  split at h
  · exact .inl ⟨‹_›, by simpa using h.symm⟩
  · split at h
    · exact .inr ⟨_, ‹_›, ‹_›, by simpa using h.symm⟩
    · simp at h

theorem writeRam_inv {s : State} (h : s.Inv) {i : Nat} (v : Byte) (hi : i < storeSize s.cfg .ram) :
    (s.writeRam i v).Inv := by
  refine ⟨writeMem_wf i v h.1, fun hc => ?_⟩
  obtain ⟨h1, h2, h3, h4, h5⟩ := h.2 hc
  exact ⟨h1, h2, h3, h4, writeMem_within v h5 hi⟩

theorem store8_inv {s t : State} (h : s.Inv) {off : Nat} {v : Byte} (hst : store8 s off v = some t) : t.Inv := by
  rcases store8_cases hst with ⟨_, rfl⟩ | ⟨i, _, hi, rfl⟩
  · exact h
  · exact writeRam_inv h v hi

theorem store8_none {s : State} {off : Nat} (v : Byte) (h : storeIndex s off = none) :
    store8 s off v = some s := by
  simp [store8, h]

theorem store8_some {s : State} (h : s.Inv) (hc : s.configured = true) {off : Nat} (ho : off < s.cfg.windowSize)
    (v : Byte) {i : Nat} (hi : storeIndex s off = some i) : store8 s off v = some (s.writeRam i v) := by
  obtain ⟨hk, _, rfl⟩ := (storeIndex_eq_some_iff s off i).mp hi
  have := phys_lt_storeSize h hc ho
  rw [hk] at this
  simp [store8, hi, this]

end Sys2Proof.Machine
end

