-- ==== Sys2Proof/Laws/Exec.lean ====
section
/-! SUPPORT. One lemma per meaning that says everything it can do, and how a step reaches the meaning. -/

namespace Sys2Proof.Machine

@[simp] theorem whenConfigured_true {s : State} (h : s.configured = true)
    (k : Host.Outcome State Fault Refusal) : whenConfigured s k = k := by simp [whenConfigured, h]

@[simp] theorem whenConfigured_false {s : State} (h : s.configured = false)
    (k : Host.Outcome State Fault Refusal) : whenConfigured s k = .next (s.raise .configError) := by
  simp [whenConfigured, h]

/-- An operation that answers either found the block unconfigured or did its own work. -/
theorem whenConfigured_next {s t : State} {k : Host.Outcome State Fault Refusal}
    (h : whenConfigured s k = .next t) :
    (s.configured = false ∧ t = s.raise .configError) ∨ (s.configured = true ∧ k = .next t) := by
  unfold whenConfigured at h
  split at h
  · exact .inr ⟨‹_›, h⟩
  · exact .inl ⟨by simpa using ‹¬ s.configured = true›, by simpa using h.symm⟩

/-! `READ` -/

theorem execRead_notHandled {s : State} (hc : s.configured = true) {a : BusAddr}
    (hd : decodeAddr s.cfg a = none) : execRead a s = .next (s.raise .notHandled) := by
  simp [execRead, hc, hd]

theorem execRead_handled {s : State} (h : s.Inv) (hc : s.configured = true) {a : BusAddr} {off : Nat}
    (hd : decodeAddr s.cfg a = some off) :
    execRead a s = .next ((select s off false 0).succeed
      (.byte (byteAt (select s off false 0) (kindAt s.cfg off) (phys (select s off false 0) off)))) := by
  have hi := select_inv h off false 0
  rw [execRead, whenConfigured_true hc, hd]
  simp only
  rw [answerByte_eq hi (by simpa using hc) (by simpa using decodeAddr_lt hd), select_cfg]

theorem execRead_next {s t : State} {a : BusAddr} (h : execRead a s = .next t) :
    (s.configured = false ∧ t = s.raise .configError) ∨
    (s.configured = true ∧ decodeAddr s.cfg a = none ∧ t = s.raise .notHandled) ∨
    (s.configured = true ∧ ∃ off b, decodeAddr s.cfg a = some off ∧
      load8 (select s off false 0) off = some b ∧ t = (select s off false 0).succeed (.byte b)) := by
  rcases whenConfigured_next h with h | ⟨hc, h⟩
  · exact .inl h
  · rcases hd : decodeAddr s.cfg a with _ | off
    · rw [hd] at h
      exact .inr (.inl ⟨hc, rfl, by simpa using h.symm⟩)
    · rw [hd] at h
      obtain ⟨b, hb, rfl⟩ := answerByte_next h
      exact .inr (.inr ⟨hc, off, b, rfl, hb, rfl⟩)

/-! `WRITE` -/

theorem execWrite_notHandled {s : State} (hc : s.configured = true) {a : BusAddr} (v : Byte)
    (hd : decodeAddr s.cfg a = none) : execWrite a v s = .next (s.raise .notHandled) := by
  simp [execWrite, hc, hd]

/-- A write that stores nothing: ROM, or RAM that is write-protected (R38, R84, R85). -/
theorem execWrite_rejected {s : State} (h : s.Inv) (hc : s.configured = true) {a : BusAddr} {off : Nat} (v : Byte)
    (hd : decodeAddr s.cfg a = some off) (hi : storeIndex (select s off true v) off = none) :
    execWrite a v s = .next ((select s off true v).succeed
      (.byte (byteAt (select s off true v) (kindAt s.cfg off) (phys (select s off true v) off)))) := by
  have hi' := select_inv h off true v
  rw [execWrite, whenConfigured_true hc, hd]
  simp only
  rw [store8_none v hi]
  simp only
  rw [answerByte_eq hi' (by simpa using hc) (by simpa using decodeAddr_lt hd), select_cfg]

/-- A write that stores into RAM (R83, R95). -/
theorem execWrite_stored {s : State} (h : s.Inv) (hc : s.configured = true) {a : BusAddr} {off i : Nat} (v : Byte)
    (hd : decodeAddr s.cfg a = some off) (hi : storeIndex (select s off true v) off = some i) :
    execWrite a v s = .next (((select s off true v).writeRam i v).succeed (.byte v)) := by
  have hi' := select_inv h off true v
  have hc' : (select s off true v).configured = true := by simpa using hc
  have ho : off < (select s off true v).cfg.windowSize := by simpa using decodeAddr_lt hd
  have hst := store8_some hi' hc' ho v hi
  obtain ⟨hk, _, rfl⟩ := (storeIndex_eq_some_iff _ off i).mp hi
  rw [execWrite, whenConfigured_true hc, hd]
  simp only
  rw [hst]
  simp only
  rw [answerByte_eq (store8_inv hi' hst) hc' ho]
  have hk' : kindAt ((select s off true v).writeRam (phys (select s off true v) off) v).cfg off = .ram := hk
  have hp : phys ((select s off true v).writeRam (phys (select s off true v) off) v) off =
      phys (select s off true v) off := rfl
  rw [hk', hp]
  simp only [byteAt, ramAt_writeRam_same]

theorem execWrite_next {s t : State} {a : BusAddr} {v : Byte} (h : execWrite a v s = .next t) :
    (s.configured = false ∧ t = s.raise .configError) ∨
    (s.configured = true ∧ decodeAddr s.cfg a = none ∧ t = s.raise .notHandled) ∨
    (s.configured = true ∧ ∃ off u b, decodeAddr s.cfg a = some off ∧
      store8 (select s off true v) off v = some u ∧ load8 u off = some b ∧ t = u.succeed (.byte b)) := by
  rcases whenConfigured_next h with h | ⟨hc, h⟩
  · exact .inl h
  · rcases hd : decodeAddr s.cfg a with _ | off
    · rw [hd] at h
      exact .inr (.inl ⟨hc, rfl, by simpa using h.symm⟩)
    · rw [hd] at h
      simp only at h
      split at h
      · simp at h
      · rename_i u hu
        obtain ⟨b, hb, rfl⟩ := answerByte_next h
        exact .inr (.inr ⟨hc, off, u, b, rfl, hu, hb, rfl⟩)

/-! `RESET`, `UNLOCK`, `QBANK`, `QLOCK` -/

theorem execReset_next {s t : State} (h : execReset s = .next t) :
    (s.configured = false ∧ t = s.raise .configError) ∨
    (s.configured = true ∧ t = (s.applyReset s.ports.setQuirk).succeed .nothing) := by
  rcases whenConfigured_next h with h | ⟨hc, h⟩
  · exact .inl h
  · exact .inr ⟨hc, by simpa using h.symm⟩

theorem execUnlock_next {s t : State} (h : execUnlock s = .next t) :
    (s.configured = false ∧ t = s.raise .configError) ∨
    (s.configured = true ∧ t = (s.setLocked (lockAfterUnlock s.effPolicy s.locked)).succeed .nothing) := by
  rcases whenConfigured_next h with h | ⟨hc, h⟩
  · exact .inl h
  · exact .inr ⟨hc, by simpa using h.symm⟩

theorem execQbank_next {s t : State} {seg : BitVec 16} (h : execQbank seg s = .next t) :
    (s.configured = false ∧ t = s.raise .configError) ∨
    (s.configured = true ∧ t = s.succeed (.bank (s.bankAt (querySeg s.cfg seg)))) := by
  rcases whenConfigured_next h with h | ⟨hc, h⟩
  · exact .inl h
  · exact .inr ⟨hc, by simpa using h.symm⟩

theorem execQlock_next {s t : State} (h : execQlock s = .next t) :
    (s.configured = false ∧ t = s.raise .configError) ∨
    (s.configured = true ∧ t = s.succeed (.flag s.locked)) := by
  rcases whenConfigured_next h with h | ⟨hc, h⟩
  · exact .inl h
  · exact .inr ⟨hc, by simpa using h.symm⟩

/-! `SAVE` and `LOAD` -/

theorem appendAll_cases (p : Ports) (fs : List Field) :
    ((∀ k, p.outRefuses = some k → fs.length ≤ k) ∧ appendAll p fs = some (p.outStream ++ fs)) ∨
    (∃ k, p.outRefuses = some k ∧ k < fs.length ∧ appendAll p fs = none) := by
  unfold appendAll
  rcases p.outRefuses with _ | k
  · exact .inl ⟨by simp, rfl⟩
  · by_cases h : k < fs.length
    · exact .inr ⟨k, rfl, h, by simp [h]⟩
    · exact .inl ⟨by simpa using h, by simp [h]⟩

theorem execSave_next {s t : State} (h : execSave s = .next t) :
    (s.configured = false ∧ t = s.raise .configError) ∨
    (s.configured = true ∧ ∃ out, appendAll s.ports (fieldList s) = some out ∧
      t = (s.setOutStream out).succeed .nothing) ∨
    (s.configured = true ∧ appendAll s.ports (fieldList s) = none ∧
      t = ((s.setOutStream (Config.failedSaveStream s.draws)).nextDraw).raise .saveFailure) := by
  rcases whenConfigured_next h with h | ⟨hc, h⟩
  · exact .inl h
  · split at h
    · rename_i out ho
      exact .inr (.inl ⟨hc, out, ho, by simpa using h.symm⟩)
    · rename_i ho
      exact .inr (.inr ⟨hc, ho, by simpa using h.symm⟩)

theorem execLoad_next {s t : State} (h : execLoad s = .next t) :
    (s.configured = false ∧ t = s.raise .configError) ∨
    (s.configured = true ∧ ∃ b rest, stage s.cfg s.ports.inStream = some (b, rest) ∧
      t = ((s.commit b).setInStream rest).succeed .nothing) ∨
    (s.configured = true ∧ stage s.cfg s.ports.inStream = none ∧
      t = ((s.setInStream (s.ports.inStream.drop (Config.failedLoadConsumed s.draws))).nextDraw).raise
        .loadFailure) := by
  rcases whenConfigured_next h with h | ⟨hc, h⟩
  · exact .inl h
  · split at h
    · rename_i b rest hs
      exact .inr (.inl ⟨hc, b, rest, hs, by simpa using h.symm⟩)
    · rename_i hs
      exact .inr (.inr ⟨hc, hs, by simpa using h.symm⟩)

/-- What `LOAD` commits is in range (R15, R111). -/
theorem commit_inv {s : State} (h : s.Inv) (hc : s.configured = true) {fs rest : List Field} {b : BankState}
    (hs : stage s.cfg fs = some (b, rest)) : (s.commit b).Inv := by
  obtain ⟨hb, hw, _⟩ := (stage_eq_some_iff _ _ _ _).mp hs
  have hwf := Inv.wf h hc
  refine ⟨h.1, fun _ => ⟨hwf, ?_, ?_, fun seg hseg => ?_, (h.2 hc).2.2.2.2⟩⟩
  · simpa [reduceBanks] using hb
  · show (if s.cfg.hasWp then b.wp else s.wp).length = _
    have h1 := Inv.wp_length h hc
    by_cases hh : s.cfg.hasWp = true <;> simp_all
  · rw [bankAt_commit s b (by rw [hb]; exact hseg)]
    exact Nat.mod_lt _ (Cfg.wf_kindBanks_pos hwf seg)

/-- The reset values are in range (R15, R29). -/
theorem applyReset_inv {s : State} (h : s.ram.wf = true) (hw : s.configured = true → s.cfg.wf = true ∧
    s.ram.within (s.cfg.ramBankCount * s.cfg.bankSize) = true) (b : Bool) : (s.applyReset b).Inv := by
  refine ⟨h, fun hc => ?_⟩
  obtain ⟨h1, h2⟩ := hw hc
  refine ⟨h1, by simp, ?_, fun seg _ => ?_, h2⟩
  · show (wpAtReset s.cfg).length = _
    unfold wpAtReset
    split <;> simp_all
  · rw [bankAt_applyReset]
    exact Cfg.wf_kindBanks_pos h1 seg

/-! How a step reaches a meaning. -/

theorem step_idle {s : State} (h : s.pending = []) : step s = .next s := by
  simp [step, fetch, h]

theorem step_issue {s : State} {r : Request} {rest : List Request} (h : s.pending = r :: rest) :
    step s = exec (decode r.word) (s.issue r rest) := by
  simp [step, fetch, h]

theorem issue_inv {s : State} (h : s.Inv) (r : Request) (rest : List Request) : (s.issue r rest).Inv := h

end Sys2Proof.Machine
end

