-- ==== Sys2Proof/Laws/PerInstr.lean ====
section
/-! SUPPORT. What is said of every operation, one lemma per constructor: the family RoundTrip says that decoding the
canonical word of an operation gives the operation back. -/

namespace Sys2Proof.Laws

theorem append_toNat {n m : Nat} (x : BitVec n) (y : BitVec m) :
    (x ++ y).toNat = x.toNat * 2 ^ m + y.toNat := by
  rw [BitVec.toNat_append, Nat.shiftLeft_eq, Nat.mul_comm, Nat.two_pow_add_eq_or_of_lt y.isLt]

theorem packWord_toNat (op : BitVec 4) (a : BitVec 16) (d : Byte) :
    (packWord op a d).toNat = op.toNat * 16777216 + a.toNat * 256 + d.toNat := by
  have h : (packWord op a d).toNat = (op ++ a ++ d).toNat := rfl
  rw [h, append_toNat, append_toNat]
  omega

theorem opField_toNat (w : TWord) : (opField w).toNat = w.toNat / 16777216 := by
  have := w.isLt
  simp only [opField, BitVec.extractLsb'_toNat, Nat.shiftRight_eq_div_pow]
  omega

theorem addrField_toNat (w : TWord) : (addrField w).toNat = w.toNat / 256 % 65536 := by
  simp [addrField, BitVec.extractLsb'_toNat, Nat.shiftRight_eq_div_pow]

theorem dataField_toNat (w : TWord) : (dataField w).toNat = w.toNat % 256 := by
  simp [dataField, BitVec.extractLsb'_toNat]

@[simp] theorem opField_packWord (op : BitVec 4) (a : BitVec 16) (d : Byte) :
    opField (packWord op a d) = op := by
  apply BitVec.eq_of_toNat_eq
  have h1 := a.isLt
  have h2 := d.isLt
  rw [opField_toNat, packWord_toNat]
  omega

@[simp] theorem addrField_packWord (op : BitVec 4) (a : BitVec 16) (d : Byte) :
    addrField (packWord op a d) = a := by
  apply BitVec.eq_of_toNat_eq
  have h1 := a.isLt
  have h2 := d.isLt
  rw [addrField_toNat, packWord_toNat]
  omega

@[simp] theorem dataField_packWord (op : BitVec 4) (a : BitVec 16) (d : Byte) :
    dataField (packWord op a d) = d := by
  apply BitVec.eq_of_toNat_eq
  have h2 := d.isLt
  rw [dataField_toNat, packWord_toNat]
  omega

/-- A word is the packing of its three fields (R48). -/
theorem packWord_fields (w : TWord) : packWord (opField w) (addrField w) (dataField w) = w := by
  apply BitVec.eq_of_toNat_eq
  have := w.isLt
  rw [packWord_toNat, opField_toNat, addrField_toNat, dataField_toNat]
  omega

/-- One bit of a packed word (R48). -/
theorem packWord_getLsbD (op : BitVec 4) (a : BitVec 16) (d : Byte) (i : Nat) :
    (packWord op a d).getLsbD i =
      if i < 8 then d.getLsbD i else if i < 24 then a.getLsbD (i - 8) else op.getLsbD (i - 24) := by
  have h : (packWord op a d).getLsbD i = (op ++ a ++ d).getLsbD i := rfl
  rw [h, BitVec.getLsbD_append]
  split
  · rfl
  · rw [BitVec.getLsbD_append]
    split
    · rw [if_pos (by omega)]
    · rw [if_neg (by omega)]
      congr 1

/-- Decoding the canonical word of `i` gives `i` back (R48 to R50). -/
def RoundTrip.Statement (i : Instr) : Prop := decode (encode i) = i

theorem RoundTrip.read (addr : BusAddr) : RoundTrip.Statement (.read addr) := by
  simp [RoundTrip.Statement, decode, encode, Instr.op, Instr.addrOperand]

theorem RoundTrip.write (addr : BusAddr) (data : Byte) : RoundTrip.Statement (.write addr data) := by
  simp [RoundTrip.Statement, decode, encode, Instr.op, Instr.addrOperand, Instr.dataOperand]

theorem RoundTrip.reset : RoundTrip.Statement .reset := by unfold RoundTrip.Statement; decide

theorem RoundTrip.unlock : RoundTrip.Statement .unlock := by unfold RoundTrip.Statement; decide

theorem RoundTrip.save : RoundTrip.Statement .save := by unfold RoundTrip.Statement; decide

theorem RoundTrip.load : RoundTrip.Statement .load := by unfold RoundTrip.Statement; decide

theorem RoundTrip.qbank (seg : BitVec 16) : RoundTrip.Statement (.qbank seg) := by
  simp [RoundTrip.Statement, decode, encode, Instr.op, Instr.addrOperand]

theorem RoundTrip.qlock : RoundTrip.Statement .qlock := by unfold RoundTrip.Statement; decide

theorem RoundTrip.reserved8 : RoundTrip.Statement .reserved8 := by unfold RoundTrip.Statement; decide

theorem RoundTrip.reserved9 : RoundTrip.Statement .reserved9 := by unfold RoundTrip.Statement; decide

theorem RoundTrip.reservedA : RoundTrip.Statement .reservedA := by unfold RoundTrip.Statement; decide

theorem RoundTrip.reservedB : RoundTrip.Statement .reservedB := by unfold RoundTrip.Statement; decide

theorem RoundTrip.reservedC : RoundTrip.Statement .reservedC := by unfold RoundTrip.Statement; decide

theorem RoundTrip.reservedD : RoundTrip.Statement .reservedD := by unfold RoundTrip.Statement; decide

theorem RoundTrip.reservedE : RoundTrip.Statement .reservedE := by unfold RoundTrip.Statement; decide

theorem RoundTrip.reservedF : RoundTrip.Statement .reservedF := by unfold RoundTrip.Statement; decide

end Sys2Proof.Laws
end

