-- ==== Sys2Proof/Laws/Run.lean ====
section
/-! SUPPORT. Runs: how a run takes its steps, what a step does, and the induction over a run, packaged once. -/

namespace Sys2Proof.Machine

/-- A step is idle or executes the first pending operation. -/
theorem step_next {s t : State} (h : step s = .next t) :
    (s.pending = [] ∧ t = s) ∨
    (∃ r rest, s.pending = r :: rest ∧ exec (decode r.word) (s.issue r rest) = .next t) := by
  rcases hp : s.pending with _ | ⟨r, rest⟩
  · rw [step_idle hp] at h
    exact .inl ⟨rfl, by simpa using h.symm⟩
  · rw [step_issue hp] at h
    exact .inr ⟨r, rest, rfl, h⟩

theorem run_next {n : Nat} {s s' : State} (h : step s = .next s') :
    Sys2Proof.core.run (n + 1) s = Sys2Proof.core.run n s' := by
  have h' : Sys2Proof.core.step s = .next s' := h
  simp only [Host.Core.run, h']

theorem run_one (s : State) : Sys2Proof.core.run 1 s = step s := by
  show _ = Sys2Proof.core.step s
  simp only [Host.Core.run]
  rcases Sys2Proof.core.step s <;> rfl

/-- What every step keeps, every run keeps. -/
theorem run_keeps {P : State → Prop} (hstep : ∀ s t, P s → step s = .next t → P t) (n : Nat) :
    ∀ s t, P s → Sys2Proof.core.run n s = .next t → P t := by
  induction n with
  | zero =>
    intro s t hp h
    cases h
    exact hp
  | succ n ih =>
    intro s t hp h
    simp only [Host.Core.run] at h
    split at h
    · exact ih _ t (hstep _ _ hp ‹_›) h
    · cases h
    · cases h

end Sys2Proof.Machine
end

