-- ==== Sys2Proof/Tests/Slice0.lean ====
section
/-! SUPPORT. The model's own tests. Expected results are the spec's: section and row numbers are those of
95_test_vectors.md unless a rule is named. Then the witnesses: for each statement with hypotheses, concrete values
that meet them. -/

namespace Sys2Proof.Tests

open Sys2Proof.Machine

/-! Configurations and states -/

/-- The bytes of the test image `IMG` (section 0) that the tests read. -/
def img : Memory :=
  [(0x010, 0x10), (0x803, 0x03), (0x3010, 0x70), (0x3803, 0x63), (0x3805, 0x65), (0x5805, 0xA5)]

/-- `TVBOY_REF8` after power-on, with `HOT_ON_READ` as given. -/
def tv (hotOnRead : Bool) : State := State.construct (tvboyRef8 hotOnRead img "") true 0

/-- The bytes of the test image `IMG2` (section 0) that the tests read. -/
def img2 : Memory := [(0x005, 0x05), (0x7F9, 0x09), (0x17F2, 0x22)]

/-- `SPLIT2` (section 0). -/
def split2Cfg (hotOnRead : Bool) : Cfg where
  mirrorMask := 0x1FFF
  windowBase := 0x1000
  windowSize := 4096
  bankSize := 2048
  segKind := [.rom, .ram]
  imageSize := 16384
  image := img2
  imageFree := 0
  bankCount := 8
  ramBankCount := 2
  hot := [⟨0x7F0, 0x7F7, 0, .offsetRel⟩, ⟨0x7F8, 0x7F9, 1, .offsetRel⟩, ⟨0x7FA, 0x7FA, 0, .data⟩]
  lockPolicy := .none
  hotOnRead := hotOnRead
  hasWp := true
  wpReset := [false, false]
  contentId := ""

/-- `SPLIT2` after power-on. -/
def sp (hotOnRead : Bool) : State := State.construct (split2Cfg hotOnRead) true 0

/-- `TVBOY_REF8` at (bank 3, locked). -/
def tvLocked (hotOnRead : Bool) : State := { tv hotOnRead with currentBank := [3], locked := true }

/-- `SPLIT2` with segment 1 write-protected (row M15). -/
def spProtected : State := { sp false with wp := [false, true] }

/-- `TVBOY_REF8` with the externally-unlockable policy, at (bank 3, locked) (row S42). -/
def tvExt : State :=
  { tvLocked false with cfg := { tvboyRef8 false img "" with lockPolicy := .extUnlockable } }

/-- The block whose image is too small (row O11). -/
def tvShort : State := State.construct { tvboyRef8 false [] "" with imageSize := 16384 } true 0

/-- What a test looks at: banks, `locked` and the response of a next state. -/
def view (o : Host.Outcome State Fault Refusal) : Option (List Nat × Bool × Response) :=
  match o with
  | .next t => some (t.currentBank, t.locked, t.response)
  | .fault _ => none
  | .refused _ => none

/-- The write-protect flags and the latch of a next state. -/
def viewFlags (o : Host.Outcome State Fault Refusal) : Option (List Bool × Bool) :=
  match o with
  | .next t => some (t.wp, t.quirk)
  | .fault _ => none
  | .refused _ => none

/-- The streams of a next state. -/
def viewStreams (o : Host.Outcome State Fault Refusal) : Option (List Field × List Field) :=
  match o with
  | .next t => some (t.ports.inStream, t.ports.outStream)
  | .fault _ => none
  | .refused _ => none

/-- `s` with the given input stream at the port. -/
def feed (s : State) (fs : List Field) : State := { s with ports := { s.ports with inStream := fs } }

/-- `s` with an output stream that refuses field `k` at the port. -/
def choke (s : State) (k : Nat) : State := { s with ports := { s.ports with outRefuses := some k } }

/-! Well-formedness: an ill-formed configuration for each check -/

theorem test_refs_wf : (tvboyRef8 true [] "").wf = true ∧ (tvboyRef128 true [] "").wf = true ∧
    (split2Cfg true).wf = true := by decide

theorem test_sizes_refused : Cfg.wf { split2Cfg true with bankSize := 3000 } = false := by decide

theorem test_window_refused : Cfg.wf { tvboyRef8 true [] "" with windowBase := 0x2000 } = false := by decide

theorem test_window_top_refused :
    Cfg.wf { tvboyRef8 true [] "" with windowBase := 0xF800, mirrorMask := 0xFFFF } = false := by decide

theorem test_banks_refused : Cfg.wf { tvboyRef8 true [] "" with imageSize := 16384 } = false := by decide

theorem test_image_refused :
    Cfg.wf { tvboyRef8 true [] "" with
      bankSize := 2048, segKind := [.rom, .rom], wpReset := [false, false], bankCount := 1, imageSize := 2048 } = false := by
  decide

theorem test_ram_refused : Cfg.wf { split2Cfg true with ramBankCount := 0 } = false := by decide

theorem test_hot_range_refused :
    Cfg.wf { tvboyRef8 true [] "" with hot := [⟨0x800, 0x1000, 0, .offsetMod⟩] } = false := by decide

theorem test_hot_overlap_refused :
    Cfg.wf { tvboyRef8 true [] "" with
      hot := [⟨0x800, 0x87F, 0, .offsetMod⟩, ⟨0x87F, 0x880, 0, .data⟩] } = false := by decide

theorem test_wp_refused : Cfg.wf { tvboyRef8 true [] "" with wpReset := [true] } = false := by decide

theorem test_shape_refused :
    Cfg.wf { tvboyRef8 true [] "" with segKind := [] } = false ∧
    Cfg.wf (tvboyRef8 true [(5, 0), (5, 1)] "") = false ∧
    Cfg.wf (tvboyRef8 true [(524288, 0)] "") = false ∧
    Cfg.wf { tvboyRef8 true [] "" with ramBankCount := 1 } = false := by decide

/-- R6's defaults: a configuration that gives neither window size, bank count nor write-protect reset values. -/
def defaultCfg : Cfg where
  mirrorMask := 0x1FFF
  windowBase := 0x1000
  bankSize := 2048
  segKind := [.rom, .ram]
  imageSize := 16384
  image := []
  imageFree := 0
  ramBankCount := 2
  hot := []
  lockPolicy := .none
  hotOnRead := false
  hasWp := true
  contentId := ""

theorem test_defaults : defaultCfg.windowSize = 4096 ∧ defaultCfg.bankCount = 8 ∧
    defaultCfg.wpReset = [false, false] ∧ defaultCfg.wf = true := by decide

/-- Log 18: the fast path gives nothing on an unconfigured block; on a configured one it gives the byte of
R92's example. -/
theorem test_fast_path : fastRead tvShort 0x1010 = none ∧ fastRead (tv false) 0x1010 = some 0x10 := by decide

theorem test_no_operand_is_illegal : Instr.wf (.read 0xFFFF) = true ∧ Instr.wf (.qbank 0xFFFF) = true := by decide

/-! Words: bit by bit from R48, `oooo aaaaaaaaaaaaaaaa dddddddd` -/

theorem test_decode_bus :
    decode 0b0000_0001000000010000_00000000 = .read 0x1010 ∧
    decode 0b0001_0001100000000011_00000000 = .write 0x1803 0x00 ∧
    decode 0b0001_0001011111111010_11111111 = .write 0x17FA 0xFF := by decide

theorem test_decode_control :
    decode 0b0010_0000000000000000_00000000 = .reset ∧
    decode 0b0011_0000000000000000_00000000 = .unlock := by decide

theorem test_decode_persistence :
    decode 0b0100_0000000000000000_00000000 = .save ∧
    decode 0b0101_0000000000000000_00000000 = .load := by decide

theorem test_decode_introspection :
    decode 0b0110_0000000000000010_00000000 = .qbank 2 ∧
    decode 0b0111_0000000000000000_00000000 = .qlock := by decide

theorem test_decode_reserved :
    decode 0b1000_0000000000000000_00000000 = .reserved8 ∧
    decode 0b1001_0000000000000000_00000000 = .reserved9 ∧
    decode 0b1010_0000000000000000_00000000 = .reservedA ∧
    decode 0b1011_0000000000000000_00000000 = .reservedB ∧
    decode 0b1100_0000000000000000_00000000 = .reservedC ∧
    decode 0b1101_0000000000000000_00000000 = .reservedD ∧
    decode 0b1110_0000000000000000_00000000 = .reservedE ∧
    decode 0b1111_0001100000000011_00000000 = .reservedF := by decide

/-- A number of more than 28 bits is no word; `nbits` cuts. -/
theorem test_decode_table_word :
    decodeTableWord 28 0x1180300 = some (.write 0x1803 0) ∧ decodeTableWord 32 0x11180300 = none ∧
    decodeNat 0x10000000 = .error .widerThanAWord := by
  refine ⟨by decide, by decide, rfl⟩

/-- R59: the words of the trace notation. -/
theorem test_encode : encode (.read 0x1010) = 0x0101000 ∧ encode (.write 0x17FA 0xFF) = 0x117FAFF ∧
    encode (.qbank 1) = 0x6000100 ∧ encode .load = 0x5000000 := by decide

/-- R59: how a line is written. -/
theorem test_line_text : (Line.wr 0x1803 0).text = "WR $1803,#$00" ∧ (Line.rd 0x1FFC).text = "RD $1FFC" ∧
    Response.text ⟨.ok, .byte 0x63⟩ = "OK $63" := by decide

/-! Construction and reset -/

theorem test_reset_is_construction :
    State.reset = State.construct (tvboyRef8 Config.hotOnRead [] Config.contentId) true 0 := rfl

/-- O11. -/
theorem test_short_image : tvShort.configured = false ∧ tvShort.response = ⟨.configError, .nothing⟩ := by decide

/-! Address decoder: rows A2, A3, A5, A9, A15 -/

theorem test_decodeAddr :
    decodeAddr (tv true).cfg 0x0FFF = none ∧ decodeAddr (tv true).cfg 0x1000 = some 0 ∧
    decodeAddr (tv true).cfg 0x1FFF = some 0xFFF ∧ decodeAddr (tv true).cfg 0x3803 = some 0x803 ∧
    decodeAddr (tv true).cfg 0x0803 = none := by decide

/-! Operations -/

/-- S24: the read switches, locks and returns the new bank's byte. -/
theorem test_read_switches :
    view (exec (.read 0x1803) (tv true)) = some ([3], true, ⟨.ok, .byte 0x63⟩) := by decide

/-- S21: without `HOT_ON_READ` it does not. -/
theorem test_read_plain :
    view (exec (.read 0x1803) (tv false)) = some ([0], false, ⟨.ok, .byte 0x03⟩) := by decide

/-- S16: a mirror of a hot address; S12: switch and lock. -/
theorem test_write_switches :
    view (exec (.write 0x3805 0) (tv false)) = some ([5], true, ⟨.ok, .byte 0xA5⟩) := by decide

/-- M12: a store into RAM and its data result; M15: a protected segment keeps its byte. -/
theorem test_write_ram :
    view (exec (.write 0x1810 0xAB) (sp false)) = some ([0, 0], false, ⟨.ok, .byte 0xAB⟩) ∧
    view (exec (.write 0x1810 0x11) { spProtected with ram := [(0x010, 0xAB)] }) =
      some ([0, 0], false, ⟨.ok, .byte 0xAB⟩) := by decide

/-- O1, O20. -/
theorem test_reset : view (exec .reset (tvLocked false)) = some ([0], false, ⟨.ok, .nothing⟩) := by decide

theorem test_reset_samples :
    viewFlags (exec .reset { spProtected with ports := ⟨false, [], [], none⟩ }) = some ([false, false], false) := by decide

/-- S42, S43. -/
theorem test_unlock : view (exec .unlock tvExt) = some ([3], false, ⟨.ok, .nothing⟩) ∧
    view (exec .unlock (tvLocked false)) = some ([3], true, ⟨.ok, .nothing⟩) := by decide

/-- L11. -/
theorem test_save : viewStreams (exec .save { sp false with currentBank := [5, 0] }) =
    some ([], [.int 5, .int 0, .bool false, .bool false, .bool false]) := by decide

/-- L10. -/
theorem test_save_failure :
    view (exec .save (choke (tvLocked false) 1)) = some ([3], true, ⟨.saveFailure, .nothing⟩) := by decide

/-- L13, L9. -/
theorem test_load :
    view (exec .load (feed (sp false) [.int 9, .int 3, .bool false, .bool false, .bool true])) =
      some ([1, 1], true, ⟨.ok, .nothing⟩) ∧
    viewStreams (exec .load (feed (tv false) [.int 5, .bool false, .int 9, .int 9])) =
      some ([.int 9, .int 9], []) := by decide

/-- L14, L5. -/
theorem test_load_failure :
    view (exec .load (feed { sp false with currentBank := [5, 0] } [.int 1, .int 1, .bool false, .bool true])) =
      some ([5, 0], false, ⟨.loadFailure, .nothing⟩) ∧
    view (exec .load (feed (tvLocked false) [.bool true, .int 3])) =
      some ([3], true, ⟨.loadFailure, .nothing⟩) := by decide

/-- O5, O7. -/
theorem test_qbank : view (exec (.qbank 5) (tvLocked false)) = some ([3], true, ⟨.ok, .bank 3⟩) ∧
    view (exec (.qbank 2) { sp false with currentBank := [5, 1] }) = some ([5, 1], false, ⟨.ok, .bank 5⟩) := by decide

/-- Scenario 1, step 3. -/
theorem test_qlock : view (exec .qlock (tvLocked false)) = some ([3], true, ⟨.ok, .flag true⟩) := by decide

/-- O10, O14. -/
theorem test_reserved : view (exec .reservedF (tv false)) = some ([0], false, ⟨.refused, .nothing⟩) ∧
    view (exec .reserved9 tvShort) = some ([], false, ⟨.refused, .nothing⟩) := by decide

/-- O12, O13: an unconfigured block. -/
theorem test_unconfigured : view (exec (.read 0x1010) tvShort) = some ([], false, ⟨.configError, .nothing⟩) ∧
    view (exec .reset tvShort) = some ([], false, ⟨.configError, .nothing⟩) := by decide

/-- The word `0x0101000` issued after power-on runs as `RD $1010` (Scenario 3, step 1). -/
theorem test_step_fetches :
    view (step ((tv false).withFetchWord 32 0x0101000)) = some ([0], false, ⟨.ok, .byte 0x10⟩) := by decide

/-- S44: a bank count that is no power of two, `0x80B mod 6 = 1`. -/
theorem test_modulo : target { tvboyRef8 false [] "" with bankCount := 6 } ⟨0x800, 0x87F, 0, .offsetMod⟩ 0x80B 0 = 1 := by
  decide

/-! Witnesses: concrete values that meet the hypotheses of each statement together -/

/-- The hot range of the reference configuration. -/
def tvHot : HotRange := ⟨0x800, 0x87F, 0, .offsetMod⟩

theorem tv_ok : (tv true).Inv ∧ (tv true).configured = true := by unfold State.Inv; decide

theorem tvPlain_ok : (tv false).Inv ∧ (tv false).configured = true := by unfold State.Inv; decide

theorem tvLocked_ok : (tvLocked true).Inv ∧ (tvLocked true).configured = true ∧ (tvLocked true).locked = true := by
  unfold State.Inv; decide

theorem sp_ok : (sp false).Inv ∧ (sp false).configured = true := by unfold State.Inv; decide

theorem spHot_ok : (sp true).Inv ∧ (sp true).configured = true := by unfold State.Inv; decide

theorem spProtected_ok : spProtected.Inv ∧ spProtected.configured = true := by unfold State.Inv; decide

/-- In `SPLIT2` no read at an offset of segment 1 triggers. -/
theorem sp_no_trigger (hotOnRead : Bool) : ∀ h, HotAt (sp hotOnRead).cfg h 0x810 →
    (sp hotOnRead).cfg.hotOnRead = false ∨ h.source = .data := by
  rintro h ⟨hm, h1, h2⟩
  have hc : (sp hotOnRead).cfg.hot = (split2Cfg hotOnRead).hot := by cases hotOnRead <;> rfl
  rw [hc] at hm
  simp only [split2Cfg, List.mem_cons, List.not_mem_nil, or_false] at hm
  rcases hm with rfl | rfl | rfl <;> simp at h2

/-- DecodeEncodeRoundTrip. -/
theorem witness_round_trip : Instr.wf (.write 0xFFFF 0xFF) = true := by decide

/-- IgnoredFieldsSelectNothing, each clause: a `READ`, a `WRITE`, a `RESET`. -/
theorem witness_ignored_fields :
    (opField 0x01803FF = opField 0x0180300 ∧ addrField 0x01803FF = addrField 0x0180300) ∧
    (opField 0x1180355 = 0x1 ∧ dataField 0x1180355 = 0x55) ∧
    (opField 0x2ABCDEF = opField 0x2000000 ∧ opField 0x2ABCDEF = 0x2) := by decide

/-- StepExecutesTheNextOperation, both clauses. -/
theorem witness_step : ((tv true).withFetchWord 32 0x2000000).pending = [⟨0x2000000, ⟨true, [], [], none⟩⟩] ∧
    (tv true).pending = [] := by decide

/-- ReservedWordsAreRefused: the lowest and the highest reserved code. -/
theorem witness_reserved : 8 ≤ (opField 0x8000000).toNat ∧ 8 ≤ (opField 0xFFFFFFF).toNat := by decide

/-- UnconfiguredBlockAnswersConfigError, the unconfigured clauses of the statements on `RESET`, `UNLOCK`, `QBANK` and
`QLOCK`, and the third clause of LockHoldsUntilAnUnlockCondition. -/
theorem witness_unconfigured : Instr.port .reset ≠ none ∧ tvShort.configured = false ∧
    exec .reset tvShort = .next (tvShort.raise .configError) := ⟨by decide, by decide, rfl⟩

/-- ConstructionGivesResetValues, both clauses, the write-protect clause among them. -/
theorem witness_construction : (split2Cfg true).wf = true ∧ (split2Cfg true).hasWp = true ∧
    (1 < (split2Cfg true).nseg) ∧ Cfg.wf { tvboyRef8 false [] "" with imageSize := 16384 } = false := by decide

/-- ShortImageIsFatal: 8 banks of 4096 bytes in 16384 bytes, and a run of one step. -/
theorem witness_short_image :
    Cfg.imageSize { tvboyRef8 false [] "" with imageSize := 16384 } < 8 * 4096 ∧
    Sys2Proof.core.run 0 { tvShort with pending := [] } = .next { tvShort with pending := [] } := ⟨by decide, rfl⟩

/-- ResetRestoresThePowerOnState, with write-protect flags. -/
theorem witness_reset : spProtected.configured = true ∧ spProtected.cfg.hasWp = true ∧ 1 < spProtected.cfg.nseg := by decide

/-- UnlockClearsTheLockUnderItsPolicy, both cases. -/
theorem witness_unlock : (tvExt.configured = true ∧ tvExt.quirk = true ∧ tvExt.cfg.lockPolicy = .extUnlockable) ∧
    ((tvLocked true).configured = true ∧ (tvLocked true).cfg.lockPolicy ≠ .extUnlockable) := by decide

/-- QbankAnswersTheBankRegister, QlockAnswersTheLock, OutcomeFollowsTheCheckOrder, BlockNeverStops. -/
theorem witness_introspection : (tv true).Inv ∧ (tv true).configured = true := tv_ok

/-- IntrospectionCanBeInsertedAnywhere: two inserted operations. -/
theorem witness_inserted : ∀ q ∈ [(⟨0x6000000, ⟨true, [], [], none⟩⟩ : Request), ⟨0x7000000, ⟨true, [], [], none⟩⟩],
    Instr.port (decode q.word) = some .introspection := by decide

/-- AccessOutsideTheWindowIsNotHandled: one below the window, and above it without mirrors. -/
theorem witness_outside :
    ((0x0FFF &&& (tv true).cfg.mirrorMask).toNat < (tv true).cfg.windowBase.toNat) ∧
    ((tv true).cfg.windowBase.toNat + (tv true).cfg.windowSize ≤ ((0x2000 : BusAddr) &&& 0xFFFF).toNat) ∧
    (tv true).configured = true := by decide

/-- DecoderAnswersAnOffsetOfTheWindow: first and last address of the window, and one below. -/
theorem witness_decoder : decodeAddr (tv true).cfg 0x1000 = some 0 ∧ decodeAddr (tv true).cfg 0x1FFF = some 4095 ∧
    decodeAddr (tv true).cfg 0x0FFF = none := by decide

/-- MirrorsAreIndistinguishable. -/
theorem witness_mirrors : (0x1803 : BusAddr) &&& (tv true).cfg.mirrorMask = 0xF803 &&& (tv true).cfg.mirrorMask := by
  decide

/-- HotLookupFindsTheOneRange: both ends of the range, and the offsets beside them. -/
theorem witness_hot_lookup : (tv true).cfg.wf = true ∧ hotLookup (tv true).cfg 0x800 = some tvHot ∧
    hotLookup (tv true).cfg 0x87F = some tvHot ∧ hotLookup (tv true).cfg 0x7FF = none ∧
    hotLookup (tv true).cfg 0x880 = none := by decide

/-- TargetBankIsReduced: a range of each source. -/
theorem witness_target : (sp true).cfg.wf = true ∧ (tv true).cfg.wf = true ∧
    HotAt (tv true).cfg tvHot 0x87F ∧ HotAt (sp true).cfg ⟨0x7F8, 0x7F9, 1, .offsetRel⟩ 0x7F9 ∧
    HotAt (sp true).cfg ⟨0x7FA, 0x7FA, 0, .data⟩ 0x7FA := by unfold HotAt; decide

/-- PlainReadAnswersTheMappedByte, FastPathAgreesWithRead (second clause): from ROM and from RAM. -/
theorem witness_plain_read :
    ((tv false).Inv ∧ (tv false).configured = true ∧ decodeAddr (tv false).cfg 0x1803 = some 0x803 ∧
      ∀ h, HotAt (tv false).cfg h 0x803 → (tv false).cfg.hotOnRead = false ∨ h.source = .data) ∧
    ((sp true).Inv ∧ (sp true).configured = true ∧ decodeAddr (sp true).cfg 0x1810 = some 0x810 ∧
      ∀ h, HotAt (sp true).cfg h 0x810 → (sp true).cfg.hotOnRead = false ∨ h.source = .data) :=
  ⟨⟨tvPlain_ok.1, tvPlain_ok.2, by decide, fun _ _ => .inl (by decide)⟩,
    ⟨spHot_ok.1, spHot_ok.2, by decide, sp_no_trigger true⟩⟩

/-- TriggeringReadSwitches and FastPathAgreesWithRead (first clause): row S24. -/
theorem witness_triggering_read : (tv true).Inv ∧ (tv true).configured = true ∧
    decodeAddr (tv true).cfg 0x1803 = some 0x803 ∧ HotAt (tv true).cfg tvHot 0x803 ∧
    (tv true).cfg.hotOnRead = true ∧ tvHot.source ≠ .data ∧ (tv true).locked = false ∧
    3 = target (tv true).cfg tvHot 0x803 0 ∧ 3 ≠ (tv true).currentBank.getD tvHot.seg 0 :=
  ⟨tv_ok.1, tv_ok.2, by unfold HotAt; decide⟩

/-- HotWriteSwitches: row S12, and a range whose source is the data (row S62). -/
theorem witness_hot_write :
    ((tv false).Inv ∧ (tv false).configured = true ∧ decodeAddr (tv false).cfg 0x180B = some 0x80B ∧
      HotAt (tv false).cfg tvHot 0x80B ∧ (tv false).locked = false ∧ 3 = target (tv false).cfg tvHot 0x80B 0 ∧
      3 ≠ (tv false).currentBank.getD tvHot.seg 0) ∧
    ((sp true).Inv ∧ (sp true).configured = true ∧ decodeAddr (sp true).cfg 0x17FA = some 0x7FA ∧
      HotAt (sp true).cfg ⟨0x7FA, 0x7FA, 0, .data⟩ 0x7FA ∧ (sp true).locked = false ∧
      7 = target (sp true).cfg ⟨0x7FA, 0x7FA, 0, .data⟩ 0x7FA 0xFF ∧ 7 ≠ (sp true).currentBank.getD 0 0) :=
  ⟨⟨tvPlain_ok.1, tvPlain_ok.2, by unfold HotAt; decide⟩, ⟨spHot_ok.1, spHot_ok.2, by unfold HotAt; decide⟩⟩

/-- LockBlocksEverySwitch: row S13. -/
theorem witness_locked : (tvLocked true).Inv ∧ (tvLocked true).configured = true ∧
    decodeAddr (tvLocked true).cfg 0x1800 = some 0x800 ∧ (tvLocked true).locked = true :=
  ⟨tvLocked_ok.1, tvLocked_ok.2.1, by decide, tvLocked_ok.2.2⟩

/-- ReselectingTheMappedBankChangesNothing, both clauses: rows S10, S11; under `HOT_ON_READ` and unlocked, where the
read triggers and selects the mapped bank. -/
theorem witness_reselect : (tv true).Inv ∧ (tv true).configured = true ∧
    decodeAddr (tv true).cfg 0x1808 = some 0x808 ∧ HotAt (tv true).cfg tvHot 0x808 ∧
    target (tv true).cfg tvHot 0x808 0 = (tv true).currentBank.getD tvHot.seg 0 :=
  ⟨tv_ok.1, tv_ok.2, by unfold HotAt; decide⟩

/-- WriteToRomStoresNothing: the last byte of ROM segment 0. -/
theorem witness_write_rom : (sp false).Inv ∧ (sp false).configured = true ∧
    decodeAddr (sp false).cfg 0x17FF = some 0x7FF ∧
    (sp false).cfg.kindOf (0x7FF / (sp false).cfg.bankSize) = .rom :=
  ⟨sp_ok.1, sp_ok.2, by decide⟩

/-- WriteToProtectedRamStoresNothing: the first byte of RAM segment 1. -/
theorem witness_write_protected : spProtected.Inv ∧ spProtected.configured = true ∧
    decodeAddr spProtected.cfg 0x1800 = some 0x800 ∧
    spProtected.cfg.kindOf (0x800 / spProtected.cfg.bankSize) = .ram ∧ spProtected.cfg.hasWp = true ∧
    spProtected.wp.getD (0x800 / spProtected.cfg.bankSize) false = true :=
  ⟨spProtected_ok.1, spProtected_ok.2, by decide⟩

/-- WriteToRamStoresOneByte, RamReadAnswersTheLatestWrite, WriteFrame: row M12 and its mirror of row M13. -/
theorem witness_write_ram : ∃ t, (sp false).Inv ∧ (sp false).configured = true ∧
    decodeAddr (sp false).cfg 0x1810 = some 0x810 ∧
    (sp false).cfg.kindOf (0x810 / (sp false).cfg.bankSize) = .ram ∧
    (sp false).wp.getD (0x810 / (sp false).cfg.bankSize) false = false ∧
    storeIndex (select (sp false) 0x810 true 0xAB) 0x810 = some 0x010 ∧
    (0x1810 : BusAddr) &&& (sp false).cfg.mirrorMask = 0x3810 &&& (sp false).cfg.mirrorMask ∧
    (∀ h, HotAt (sp false).cfg h 0x810 → (sp false).cfg.hotOnRead = false ∨ h.source = .data) ∧
    exec (.write 0x1810 0xAB) (sp false) = .next t :=
  ⟨_, sp_ok.1, sp_ok.2, by decide, by decide, by decide, by decide, by decide, sp_no_trigger false, rfl⟩

/-- ReadFrame, RepeatedReadIsIdempotent: a read that switches. -/
theorem witness_read_next : ∃ t, (tv true).Inv ∧ exec (.read 0x1803) (tv true) = .next t ∧ t.currentBank = [3] :=
  ⟨_, tv_ok.1, rfl, by decide⟩

/-- PhysicalIndexIsInRange: the first and the last offset of the window, in a ROM and in a RAM segment. -/
theorem witness_phys : (sp false).Inv ∧ (sp false).configured = true ∧ 0 < (sp false).cfg.windowSize ∧
    4095 < (sp false).cfg.windowSize ∧ (sp false).cfg.kindOf (0 / (sp false).cfg.bankSize) = .rom ∧
    (sp false).cfg.kindOf (4095 / (sp false).cfg.bankSize) = .ram :=
  ⟨sp_ok.1, sp_ok.2, by decide⟩

/-- ImageTailIsUnreachable: an image that differs in its last byte alone. -/
theorem witness_image_tail : (tv false).Inv ∧
    (∀ k < (tv false).cfg.bankCount * (tv false).cfg.bankSize,
      imageAt { (tv false).cfg with image := img ++ [(524287, 0xFF)], imageFree := 0 } k = imageAt (tv false).cfg k) ∧
    exec .qlock (tv false) = .next ((tv false).succeed (.flag false)) := by
  refine ⟨tvPlain_ok.1, fun k hk => ?_, rfl⟩
  have hk' : k < 32768 := hk
  show (readMem (img ++ [(524287, 0xFF)]) k).getD (Config.imageByte 0 k) = (readMem img k).getD (Config.imageByte 0 k)
  have hne : ¬ 524287 = k := by omega
  simp [img, readMem, hne]

/-- ConfigurationNeverChanges, StepKeepsTheInvariant, PortsHaveFixedRights, SettingIsSampledOnlyAtReset. -/
theorem witness_step_next : ∃ t, (tv true).Inv ∧ step ((tv true).withFetchWord 32 0x1180300) = .next t ∧
    t.currentBank = [3] := ⟨_, tv_ok.1, rfl, by decide⟩

/-- SaveAppendsTheFieldList: no refusal, and a refusal just past the last field. -/
theorem witness_save : (sp false).configured = true ∧
    (∀ k, (sp false).ports.outRefuses = some k →
      (if (sp false).cfg.hasWp then 2 * (sp false).cfg.nseg + 1 else (sp false).cfg.nseg + 1) ≤ k) ∧
    (∀ k, (choke (sp false) 5).ports.outRefuses = some k →
      (if (sp false).cfg.hasWp then 2 * (sp false).cfg.nseg + 1 else (sp false).cfg.nseg + 1) ≤ k) := by
  refine ⟨by decide, fun k hk => ?_, fun k hk => ?_⟩
  · exact absurd hk (by simp [show (sp false).ports.outRefuses = none from rfl])
  · obtain rfl : 5 = k := by simpa [choke] using hk
    decide

/-- SaveFailureLeavesTheBlock: refusal of the last field, with and without write-protect flags. -/
theorem witness_save_failure :
    ((choke (sp false) 4).configured = true ∧ (choke (sp false) 4).ports.outRefuses = some 4 ∧
      4 < (if (choke (sp false) 4).cfg.hasWp then 2 * (choke (sp false) 4).cfg.nseg + 1
        else (choke (sp false) 4).cfg.nseg + 1)) ∧
    ((choke (tv false) 1).configured = true ∧ (choke (tv false) 1).ports.outRefuses = some 1 ∧
      1 < (if (choke (tv false) 1).cfg.hasWp then 2 * (choke (tv false) 1).cfg.nseg + 1
        else (choke (tv false) 1).cfg.nseg + 1)) := by decide

/-- LoadReplacesTheBankState: with and without write-protect flags, with a field left over. -/
theorem witness_load :
    ([9, 3].length = (sp false).cfg.nseg ∧
      [false, true].length = (if (sp false).cfg.hasWp then (sp false).cfg.nseg else 0) ∧
      (feed (sp false) [.int 9, .int 3, .bool false, .bool true, .bool true]).ports.inStream =
        [9, 3].map Field.int ++ ([false, true].map Field.bool ++ (Field.bool true :: []))) ∧
    ([11].length = (tv false).cfg.nseg ∧
      ([] : List Bool).length = (if (tv false).cfg.hasWp then (tv false).cfg.nseg else 0) ∧
      (feed (tv false) [.int 11, .bool false, .int 9]).ports.inStream =
        [11].map Field.int ++ (([] : List Bool).map Field.bool ++ (Field.bool false :: [.int 9]))) := by decide

/-- LoadFailureLeavesTheBlock: the empty stream (row L6). -/
theorem witness_load_failure : (tv false).configured = true ∧
    ¬ ∃ (banks : List Nat) (wp : List Bool) (l : Bool) (rest : List Field),
      banks.length = (tv false).cfg.nseg ∧ wp.length = (if (tv false).cfg.hasWp then (tv false).cfg.nseg else 0) ∧
      (tv false).ports.inStream = banks.map Field.int ++ (wp.map Field.bool ++ (Field.bool l :: rest)) := by
  refine ⟨by decide, ?_⟩
  rintro ⟨banks, wp, l, rest, _, _, h⟩
  have h' : ([] : List Field) = banks.map Field.int ++ (wp.map Field.bool ++ (Field.bool l :: rest)) := h
  simp at h'

/-- SaveLoadRoundTrip: a block at (bank 3, locked) and a fresh one (rows L1, L2), to a stream that
would refuse the field after the last one. -/
theorem witness_round_trip_blocks : (tvLocked true).Inv ∧ (tv true).Inv ∧ (tvLocked true).configured = true ∧
    (tv true).configured = true ∧ (tv true).cfg = (tvLocked true).cfg ∧
    (∀ k, (choke (tvLocked true) 2).ports.outRefuses = some k →
      (if (tvLocked true).cfg.hasWp then 2 * (tvLocked true).cfg.nseg + 1 else (tvLocked true).cfg.nseg + 1) ≤ k) := by
  refine ⟨tvLocked_ok.1, tv_ok.1, tvLocked_ok.2.1, tv_ok.2, rfl, fun k hk => ?_⟩
  obtain rfl : 2 = k := by simpa [choke] using hk
  decide

/-- LockHoldsUntilAnUnlockCondition, first clause: a locked block with a write and a query pending. -/
theorem witness_lock_holds : ∃ s t : State, s.locked = true ∧ NoUnlocker s ∧ Sys2Proof.core.run 1 s = .next t :=
  ⟨{ tvLocked true with pending :=
      [⟨0x1180500, ⟨true, [], [], none⟩⟩, ⟨0x7000000, ⟨true, [], [], none⟩⟩] }, _, rfl,
    by unfold NoUnlocker; decide, run_one _⟩

/-- LockHoldsUntilAnUnlockCondition, second clause: each of the three operations that unlock. -/
theorem witness_unlockers :
    tvExt.configured = true ∧ (tvLocked true).configured = true ∧
    (∃ t, exec .reset (tvLocked true) = .next t ∧ (tvLocked true).locked = true ∧ t.locked = false) ∧
    (∃ t, exec .unlock tvExt = .next t ∧ tvExt.locked = true ∧ t.locked = false) ∧
    (∃ t, exec .load (feed (tvLocked true) [.int 3, .bool false]) = .next t ∧
      (tvLocked true).locked = true ∧ t.locked = false) :=
  ⟨by decide, by decide, ⟨_, rfl, by decide⟩, ⟨_, rfl, by decide⟩, ⟨_, rfl, by decide⟩⟩

/-- OnlySwitchesAndLoadsLock: a write and a `LOAD` that lock. -/
theorem witness_lockers :
    (∃ t, (tv true).Inv ∧ exec (.write 0x1803 0) (tv true) = .next t ∧ (tv true).locked = false ∧
      t.locked = true) ∧
    (∃ t, exec .load (feed (tv true) [.int 3, .bool true]) = .next t ∧ (tv true).locked = false ∧
      t.locked = true) :=
  ⟨⟨_, tv_ok.1, rfl, by decide⟩, ⟨_, rfl, by decide⟩⟩

/-- SelfLockingReachesTwoKindsOfState, both clauses. -/
theorem witness_self_locking : (tv true).cfg.wf = true ∧ (tv true).cfg.lockPolicy = .selfLocking ∧
    (tv true).cfg.nseg = 1 ∧ SelfLockShape ((tv true).withFetchWord 32 0x1180300) ∧
    OnlyBus ((tv true).withFetchWord 32 0x1180300) := by
  refine ⟨by decide, by decide, by decide, ?_, ?_⟩
  · unfold SelfLockShape; decide
  · unfold OnlyBus; decide

/-- FirstSwitchIsTheLast: the write of row S12, with another write pending. -/
theorem witness_first_switch : ∃ t, ((tv true).withFetchWord 32 0x1180500).effPolicy = .selfLocking ∧
    Instr.port (.write 0x180B 0) = some .bus ∧
    exec (.write 0x180B 0) ((tv true).withFetchWord 32 0x1180500) = .next t ∧
    (∃ seg, t.currentBank.getD seg 0 ≠ ((tv true).withFetchWord 32 0x1180500).currentBank.getD seg 0 ∧
      t.currentBank.getD seg 0 ≠ 0) ∧ OnlyBus t :=
  ⟨_, by decide, by decide, rfl, ⟨0, by decide⟩, by unfold OnlyBus; decide⟩

/-- SelMapsTheBank: the highest bank of each reference configuration. -/
theorem witness_sel : (tv false).cfg = tvboyRef 8 false img "" ∧ (tv false).Inv ∧ (tv false).configured = true ∧
    (tv false).locked = false ∧ 7 < 8 ∧
    (State.construct (tvboyRef128 false img "") true 0).cfg = tvboyRef 128 false img "" ∧ 127 < 128 :=
  ⟨rfl, tvPlain_ok.1, tvPlain_ok.2, by decide, by decide, rfl, by decide⟩

end Sys2Proof.Tests
end

/-! SUPPORT. What the operations of each port can do, the induction over a run whose pending operations are of one
kind, and the proofs of the statements about the state (10_state.md). -/

namespace Sys2Proof.Machine

/-! Operations that leave the block alone -/

theorem sameBlock_respond (s : State) (o : Status) (d : Result) : SameBlock s (s.respond o d) :=
  ⟨rfl, rfl, rfl, rfl, rfl, rfl, rfl, rfl⟩

/-- The invariant speaks of the block alone. -/
theorem SameBlock.inv {s t : State} (hb : SameBlock s t) (h : s.Inv) : t.Inv := by
  obtain ⟨hcfg, hconf, hbank, _, hwp, _, hram, _⟩ := hb
  simpa only [State.Inv, State.bankAt, hcfg, hconf, hbank, hwp, hram] using h

/-- A reserved word ends with `REFUSED` in every state (R52). -/
theorem exec_reserved {i : Instr} (hp : Instr.port i = none) (s : State) :
    exec i s = .next (s.raise .refused) := by
  cases i <;> simp [Instr.port] at hp <;> rfl

/-- Every operation of a port tests `configured` first (R22, R127). -/
theorem exec_unconfigured {i : Instr} (hp : Instr.port i ≠ none) {s : State} (hc : s.configured = false) :
    exec i s = .next (s.raise .configError) := by
  cases i <;> simp [Instr.port] at hp <;> exact whenConfigured_false hc _

theorem exec_introspection_next {i : Instr} {s t : State} (hp : Instr.port i = some .introspection)
    (h : exec i s = .next t) : ∃ o d, t = s.respond o d := by
  cases i <;> simp [Instr.port] at hp
  case qbank seg => rcases execQbank_next h with ⟨_, rfl⟩ | ⟨_, rfl⟩ <;> exact ⟨_, _, rfl⟩
  case qlock => rcases execQlock_next h with ⟨_, rfl⟩ | ⟨_, rfl⟩ <;> exact ⟨_, _, rfl⟩

theorem sameBlock_of_unconfigured {i : Instr} {s t : State} (hc : s.configured = false)
    (h : exec i s = .next t) : SameBlock s t := by
  by_cases hp : Instr.port i = none
  · cases (exec_reserved hp s).symm.trans h
    exact sameBlock_respond s _ _
  · cases (exec_unconfigured hp hc).symm.trans h
    exact sameBlock_respond s _ _

theorem execSave_sameBlock {s t : State} (h : execSave s = .next t) : SameBlock s t ∧ t.pending = s.pending := by
  rcases execSave_next h with ⟨_, rfl⟩ | ⟨_, _, _, rfl⟩ | ⟨_, _, rfl⟩ <;>
    exact ⟨⟨rfl, rfl, rfl, rfl, rfl, rfl, rfl, rfl⟩, rfl⟩

/-- Reserved words, queries and `SAVE` leave the block as it was (R23, R52, R107, R108). -/
theorem exec_sameBlock {i : Instr} {s t : State}
    (hp : Instr.port i = none ∨ Instr.port i = some .introspection ∨ i = .save) (h : exec i s = .next t) :
    SameBlock s t ∧ t.pending = s.pending := by
  rcases hp with hp | hp | rfl
  · cases (exec_reserved hp s).symm.trans h
    exact ⟨sameBlock_respond s _ _, rfl⟩
  · obtain ⟨o, d, rfl⟩ := exec_introspection_next hp h
    exact ⟨sameBlock_respond s o d, rfl⟩
  · exact execSave_sameBlock h

/-! The bus operations -/

/-- Everything a bus operation can do: end without an access, or let the selector work and then store at most one byte
of RAM (R91). -/
theorem exec_bus_next {i : Instr} {s t : State} (hp : Instr.port i = some .bus) (h : exec i s = .next t) :
    (∃ o, t = s.raise o) ∨
    (s.configured = true ∧ ∃ off w v d, t = (select s off w v).succeed d ∨
      ∃ k < storeSize s.cfg .ram, t = ((select s off w v).writeRam k v).succeed d) := by
  cases i <;> simp [Instr.port] at hp
  case read a =>
    rcases execRead_next h with ⟨_, rfl⟩ | ⟨_, _, rfl⟩ | ⟨hc, off, b, _, _, rfl⟩
    · exact .inl ⟨_, rfl⟩
    · exact .inl ⟨_, rfl⟩
    · exact .inr ⟨hc, off, false, 0, _, .inl rfl⟩
  case write a v =>
    rcases execWrite_next h with ⟨_, rfl⟩ | ⟨_, _, rfl⟩ | ⟨hc, off, u, b, _, hst, _, rfl⟩
    · exact .inl ⟨_, rfl⟩
    · exact .inl ⟨_, rfl⟩
    · rcases store8_cases hst with ⟨_, rfl⟩ | ⟨k, _, hk, rfl⟩
      · exact .inr ⟨hc, off, true, v, _, .inl rfl⟩
      · exact .inr ⟨hc, off, true, v, _, .inr ⟨k, by simpa using hk, rfl⟩⟩

/-- A bus operation changes bank registers, `locked`, `ram` and the response only (R23). -/
theorem exec_bus_frame {i : Instr} {s t : State} (hp : Instr.port i = some .bus) (h : exec i s = .next t) :
    t.cfg = s.cfg ∧ t.configured = s.configured ∧ t.wp = s.wp ∧ t.quirk = s.quirk ∧
    t.ramDraw = s.ramDraw ∧ t.pending = s.pending ∧ t.ports = s.ports ∧ t.draws = s.draws := by
  rcases exec_bus_next hp h with ⟨o, rfl⟩ | ⟨_, off, w, v, d, rfl | ⟨k, _, rfl⟩⟩ <;> simp

theorem exec_bus_inv {i : Instr} {s t : State} (hp : Instr.port i = some .bus) (hi : s.Inv)
    (h : exec i s = .next t) : t.Inv := by
  rcases exec_bus_next hp h with ⟨o, rfl⟩ | ⟨_, off, w, v, d, rfl | ⟨k, hk, rfl⟩⟩
  · exact hi
  · exact select_inv hi off w v
  · exact writeRam_inv (select_inv hi off w v) v (by simpa using hk)

/-- A locked block switches nothing on the bus (R73). -/
theorem exec_bus_locked {i : Instr} {s t : State} (hp : Instr.port i = some .bus) (hl : s.locked = true)
    (h : exec i s = .next t) : t.currentBank = s.currentBank ∧ t.locked = true := by
  rcases exec_bus_next hp h with ⟨o, rfl⟩ | ⟨_, off, w, v, d, rfl | ⟨k, _, rfl⟩⟩
  · exact ⟨rfl, hl⟩
  · simp [select_locked hl, hl]
  · simp [select_locked hl, hl]

/-! The selector's frame -/

/-- The selector touches the bank register of the triggered range's segment only (R71, R80). -/
theorem select_bankAt_of_ne {s : State} {off : Nat} {w : Bool} {seg : Nat} (v : Byte)
    (hne : ∀ r, triggered s.cfg off w = some r → r.seg ≠ seg) : (select s off w v).bankAt seg = s.bankAt seg := by
  rcases select_cases s off w v with ⟨he, _⟩ | ⟨r, ht, he⟩
  · rw [he]
  · have hset : (s.setBank r.seg (target s.cfg r off v)).bankAt seg = s.bankAt seg := by
      rw [bankAt_setBank, if_neg fun hh => hne r ht hh.1.symm]
    rw [he]
    rcases switchBank_cases s r.seg (target s.cfg r off v) with ⟨_, hs⟩ | ⟨_, _, ⟨_, hs⟩ | ⟨_, hs⟩⟩ <;> rw [hs]
    · exact hset
    · exact hset

/-- What a read triggers (R69). -/
theorem triggered_read {c : Cfg} {off : Nat} {r : HotRange} (ht : triggered c off false = some r) :
    HotAt c r off ∧ c.hotOnRead = true ∧ r.source ≠ .data :=
  ⟨triggered_hotAt ht, (triggers_read c r).mp ((triggered_eq_some_iff c off false r).mp ht).2⟩

/-- A read outside every range that reads trigger leaves the selector alone. -/
theorem triggered_read_eq_none {c : Cfg} {off : Nat}
    (hno : ∀ r, HotAt c r off → c.hotOnRead = false ∨ r.source = .data) : triggered c off false = none := by
  refine Option.eq_none_iff_forall_ne_some.mpr fun r ht => ?_
  obtain ⟨hat, hread, hsrc⟩ := triggered_read ht
  rcases hno r hat with hoff | hdata
  · simp [hoff] at hread
  · exact hsrc hdata

/-- An access outside every hot range leaves the selector alone. -/
theorem triggered_eq_none {c : Cfg} {off : Nat} {w : Bool} (hno : ∀ r, ¬ HotAt c r off) :
    triggered c off w = none :=
  Option.eq_none_iff_forall_ne_some.mpr fun r ht => hno r (triggered_hotAt ht)

/-! The store's frame -/

/-- A store changes no bank register, not `locked`, and no byte of RAM but the one it stores to (R83). -/
theorem store8_frame {s u : State} {off : Nat} {v : Byte} (h : store8 s off v = some u) :
    u.currentBank = s.currentBank ∧ u.locked = s.locked ∧
    ∀ j, (∀ i, storeIndex s off = some i → j ≠ i) → ramAt u j = ramAt s j := by
  rcases store8_cases h with ⟨_, rfl⟩ | ⟨i, hi, _, rfl⟩
  · exact ⟨rfl, rfl, fun _ _ => rfl⟩
  · exact ⟨rfl, rfl, fun j hj => ramAt_writeRam_other s v (hj i hi)⟩

/-! What every operation keeps -/

/-- An operation leaves the block alone, or goes over the bus, or is one of the three that may change it otherwise
(R130). -/
theorem instr_kinds (i : Instr) :
    (Instr.port i = none ∨ Instr.port i = some .introspection ∨ i = .save) ∨ Instr.port i = some .bus ∨
      i = .reset ∨ i = .unlock ∨ i = .load := by
  cases i <;> simp [Instr.port]

/-- No operation changes the configuration, the power-on draw or what is pending. -/
theorem exec_constants {i : Instr} {s t : State} (h : exec i s = .next t) :
    t.cfg = s.cfg ∧ t.configured = s.configured ∧ t.ramDraw = s.ramDraw ∧ t.pending = s.pending := by
  rcases instr_kinds i with hp | hp | rfl | rfl | rfl
  · obtain ⟨⟨hcfg, hconf, _, _, _, _, _, hdraw⟩, hpend⟩ := exec_sameBlock hp h
    exact ⟨hcfg, hconf, hdraw, hpend⟩
  · obtain ⟨hcfg, hconf, _, _, hdraw, hpend, _, _⟩ := exec_bus_frame hp h
    exact ⟨hcfg, hconf, hdraw, hpend⟩
  · rcases execReset_next h with ⟨_, rfl⟩ | ⟨_, rfl⟩ <;> exact ⟨rfl, rfl, rfl, rfl⟩
  · rcases execUnlock_next h with ⟨_, rfl⟩ | ⟨_, rfl⟩ <;> exact ⟨rfl, rfl, rfl, rfl⟩
  · rcases execLoad_next h with ⟨_, rfl⟩ | ⟨_, _, _, _, rfl⟩ | ⟨_, _, rfl⟩ <;> exact ⟨rfl, rfl, rfl, rfl⟩

theorem execReset_inv {s t : State} (hi : s.Inv) (h : execReset s = .next t) : t.Inv := by
  rcases execReset_next h with ⟨_, rfl⟩ | ⟨_, rfl⟩
  · exact hi
  · exact applyReset_inv hi.1 (fun hc => ⟨Inv.wf hi hc, Inv.ram_within hi hc⟩) s.ports.setQuirk

theorem execUnlock_inv {s t : State} (hi : s.Inv) (h : execUnlock s = .next t) : t.Inv := by
  rcases execUnlock_next h with ⟨_, rfl⟩ | ⟨_, rfl⟩ <;> exact hi

theorem execLoad_inv {s t : State} (hi : s.Inv) (h : execLoad s = .next t) : t.Inv := by
  rcases execLoad_next h with ⟨_, rfl⟩ | ⟨hc, b, rest, hs, rfl⟩ | ⟨_, _, rfl⟩
  · exact hi
  · exact commit_inv hi hc hs
  · exact hi

/-- Every operation keeps the invariant (R15). -/
theorem exec_inv {i : Instr} {s t : State} (hi : s.Inv) (h : exec i s = .next t) : t.Inv := by
  rcases instr_kinds i with hp | hp | rfl | rfl | rfl
  · exact (exec_sameBlock hp h).1.inv hi
  · exact exec_bus_inv hp hi h
  · exact execReset_inv hi h
  · exact execUnlock_inv hi h
  · exact execLoad_inv hi h

/-- What issuing and every operation of one kind keep, every run over pending operations of that kind keeps. -/
theorem run_keeps_over {P : State → Prop} {Q : Instr → Prop}
    (hissue : ∀ s r rest, P s → P (s.issue r rest))
    (hexec : ∀ i s t, Q i → P s → exec i s = .next t → P t) {n : Nat} {s t : State} (hs : P s)
    (hq : ∀ r ∈ s.pending, Q (decode r.word)) (h : Sys2Proof.core.run n s = .next t) : P t := by
  refine (run_keeps (P := fun u => P u ∧ ∀ r ∈ u.pending, Q (decode r.word)) ?_ n s t ⟨hs, hq⟩ h).1
  rintro u u' ⟨hu, hqu⟩ hstep
  rcases step_next hstep with ⟨_, rfl⟩ | ⟨r, rest, hpend, hex⟩
  · exact ⟨hu, hqu⟩
  · rw [hpend] at hqu
    obtain ⟨_, _, _, hpend'⟩ := exec_constants hex
    refine ⟨hexec _ _ _ (hqu r List.mem_cons_self) (hissue u r rest hu) hex, ?_⟩
    rw [hpend']
    exact fun r' hr' => hqu r' (List.mem_cons_of_mem r hr')

/-! The lock -/

/-- From a locked state every operation but `RESET`, `UNLOCK` and `LOAD` keeps the bank registers and the lock (R17). -/
theorem exec_keeps_lock {i : Instr} {s t : State} (hr : i ≠ .reset) (hu : i ≠ .unlock) (hld : i ≠ .load)
    (hl : s.locked = true) (h : exec i s = .next t) : t.currentBank = s.currentBank ∧ t.locked = true := by
  rcases instr_kinds i with hp | hp | rfl | rfl | rfl
  · obtain ⟨⟨_, _, hbank, hlock, _⟩, _⟩ := exec_sameBlock hp h
    exact ⟨hbank, hlock.trans hl⟩
  · exact exec_bus_locked hp hl h
  · exact absurd rfl hr
  · exact absurd rfl hu
  · exact absurd rfl hld

/-- `UNLOCK` of a locked block unlocks under the externally-unlockable policy only (R98). -/
theorem lockAfterUnlock_true_eq_false_iff (p : LockPolicy) :
    lockAfterUnlock p true = false ↔ p = .extUnlockable := by
  cases p <;> simp [lockAfterUnlock]

theorem execReset_locked {s t : State} (hc : s.configured = true) (h : execReset s = .next t) :
    t.locked = false := by
  rcases execReset_next h with ⟨hc', _⟩ | ⟨_, rfl⟩
  · simp [hc] at hc'
  · rfl

theorem execUnlock_locked_iff {s t : State} (hc : s.configured = true) (hl : s.locked = true)
    (h : execUnlock s = .next t) : t.locked = false ↔ s.effPolicy = .extUnlockable := by
  rcases execUnlock_next h with ⟨hc', _⟩ | ⟨_, rfl⟩
  · simp [hc] at hc'
  · simpa [hl] using lockAfterUnlock_true_eq_false_iff s.effPolicy

theorem execLoad_locked_iff {s t : State} (hc : s.configured = true) (hl : s.locked = true)
    (h : execLoad s = .next t) :
    t.locked = false ↔ ∃ b rest, stage s.cfg s.ports.inStream = some (b, rest) ∧ b.locked = false := by
  rcases execLoad_next h with ⟨hc', _⟩ | ⟨_, b, rest, hs, rfl⟩ | ⟨_, hs, rfl⟩
  · simp [hc] at hc'
  · simp [hs]
  · simp [hs, hl]

/-- Which operations unlock a configured block (R17). -/
theorem exec_unlocks_iff {i : Instr} {s t : State} (hc : s.configured = true) (hl : s.locked = true)
    (h : exec i s = .next t) :
    t.locked = false ↔
      i = .reset ∨ (i = .unlock ∧ s.effPolicy = .extUnlockable) ∨
      (i = .load ∧ ∃ b rest, stage s.cfg s.ports.inStream = some (b, rest) ∧ b.locked = false) := by
  by_cases hr : i = .reset
  · subst hr
    simpa using execReset_locked hc h
  by_cases hu : i = .unlock
  · subst hu
    simpa using execUnlock_locked_iff hc hl h
  by_cases hld : i = .load
  · subst hld
    simpa using execLoad_locked_iff hc hl h
  · simp [hr, hu, hld, (exec_keeps_lock hr hu hld hl h).2]

/-- An operation that `NoUnlocker` allows is none of the three that can unlock. -/
theorem ne_unlocker {i : Instr}
    (hq : Instr.port i = some .bus ∨ Instr.port i = some .introspection ∨ i = .save) :
    i ≠ .reset ∧ i ≠ .unlock ∧ i ≠ .load := by
  refine ⟨?_, ?_, ?_⟩ <;> rintro rfl <;> simp [Instr.port] at hq

/-! The self-locking block of one segment -/

/-- A switch of the one segment keeps the shape: the target is not the mapped bank, so it is not 0 in an unlocked
block, and the policy locks (R25, R74). -/
theorem switchBank_selfLockShape {s : State} (hs : SelfLockShape s) (hlen : 0 < s.currentBank.length) (b : Nat) :
    SelfLockShape (switchBank s 0 b) := by
  obtain ⟨hpol, hseg, hlock⟩ := hs
  rcases switchBank_cases s 0 b with ⟨_, he⟩ | ⟨hl, hb, hcase⟩
  · rw [he]
    exact ⟨hpol, hseg, hlock⟩
  · have hzero : s.bankAt 0 = 0 := by simpa [hl] using hlock
    have hb0 : b ≠ 0 := hzero ▸ hb
    rcases hcase with ⟨_, he⟩ | ⟨hfree, _⟩
    · rw [he]
      exact ⟨hpol, hseg, by simpa [bankAt_setBank, hlen] using hb0⟩
    · simp [hpol, setsLock, hb0] at hfree

theorem select_selfLockShape {s : State} (hi : s.Inv) (hc : s.configured = true) (hs : SelfLockShape s)
    (off : Nat) (w : Bool) (v : Byte) : SelfLockShape (select s off w v) := by
  rcases select_cases s off w v with ⟨he, _⟩ | ⟨r, ht, he⟩
  · rw [he]
    exact hs
  · obtain ⟨_, _, hseg⟩ := Cfg.wf_hot (Inv.wf hi hc) (triggered_hotAt ht).1
    have hone : s.cfg.nseg = 1 := hs.2.1
    have hr : r.seg = 0 := by omega
    rw [he, hr]
    exact switchBank_selfLockShape hs (by rw [Inv.banks_length hi hc, hone]; exact Nat.one_pos) _

theorem exec_bus_selfLockShape {i : Instr} {s t : State} (hp : Instr.port i = some .bus) (hi : s.Inv)
    (hs : SelfLockShape s) (h : exec i s = .next t) : SelfLockShape t := by
  rcases exec_bus_next hp h with ⟨o, rfl⟩ | ⟨hc, off, w, v, d, rfl | ⟨k, _, rfl⟩⟩
  · exact hs
  · exact select_selfLockShape hi hc hs off w v
  · exact select_selfLockShape hi hc hs off w v

/-! Construction -/

theorem construct_of_wf {c : Cfg} (hw : c.wf = true) (q : Bool) (d : Nat) :
    ∃ s : State, s.cfg = c ∧ State.construct c q d = (s.applyReset q).succeed .nothing := by
  unfold State.construct
  rw [if_pos hw]
  exact ⟨_, rfl, rfl⟩

theorem construct_selfLockShape {c : Cfg} (hw : c.wf = true) (hpol : c.lockPolicy = .selfLocking)
    (hone : c.nseg = 1) (d : Nat) : SelfLockShape (State.construct c true d) := by
  obtain ⟨s, rfl, he⟩ := construct_of_wf hw true d
  rw [he]
  exact ⟨by simp [State.effPolicy, hpol], hone, by simp [bankAt_applyReset]⟩

/-! The statements -/

/-- Settles O42: by port, each operation keeps every part of the invariant, and issuing touches none. -/
theorem stepKeepsTheInvariant : Obligations.StepKeepsTheInvariant := by
  intro s t hi h
  rcases step_next h with ⟨_, rfl⟩ | ⟨r, rest, _, hex⟩
  · exact hi
  · exact exec_inv (issue_inv hi r rest) hex

/-- Settles O46: the run clause by induction over the run, the others by what each operation can do. -/
theorem lockHoldsUntilAnUnlockCondition : Obligations.LockHoldsUntilAnUnlockCondition := by
  refine ⟨fun n s t hl hq h => ?_, fun i s t hc h hl => exec_unlocks_iff hc hl h, fun i s t hc h => ?_,
    fun c q d hw => ?_⟩
  · refine run_keeps_over (P := fun u => u.currentBank = s.currentBank ∧ u.locked = true)
      (Q := fun i => Instr.port i = some .bus ∨ Instr.port i = some .introspection ∨ i = .save)
      (fun _ _ _ hu => hu) (fun i u u' hi hu hex => ?_) ⟨rfl, hl⟩ hq h
    obtain ⟨hr, hun, hld⟩ := ne_unlocker hi
    obtain ⟨hbank, hlock⟩ := exec_keeps_lock hr hun hld hu.2 hex
    exact ⟨hbank.trans hu.1, hlock⟩
  · obtain ⟨_, _, _, hlock, _⟩ := sameBlock_of_unconfigured hc h
    exact hlock
  · obtain ⟨s, _, he⟩ := construct_of_wf hw q d
    rw [he]
    rfl

/-- Settles O48: the shape holds after construction, and by induction over the run every bus operation keeps it
together with the invariant, which bounds the segment that a hot range names. -/
theorem selfLockingReachesTwoKindsOfState : Obligations.SelfLockingReachesTwoKindsOfState := by
  refine ⟨fun c d hw hpol hone => construct_selfLockShape hw hpol hone d, fun n s t hi _ hs hq h => ?_⟩
  exact (run_keeps_over (P := fun u => u.Inv ∧ SelfLockShape u) (fun _ _ _ hu => hu)
    (fun i u u' hp hu hex => ⟨exec_inv hu.1 hex, exec_bus_selfLockShape hp hu.1 hu.2 hex⟩) ⟨hi, hs⟩ hq h).2

/-- Settles O29: a read changes the block through the selector only. -/
theorem readFrame : Obligations.ReadFrame := by
  intro s t a h
  rcases execRead_next h with ⟨_, rfl⟩ | ⟨_, _, rfl⟩ | ⟨_, off, b, hd, _, rfl⟩
  · exact ⟨rfl, rfl, rfl, rfl, rfl, rfl, rfl, rfl, rfl, fun _ => rfl, fun _ _ => rfl, fun _ => rfl⟩
  · exact ⟨rfl, rfl, rfl, rfl, rfl, rfl, rfl, rfl, rfl, fun _ => rfl, fun _ _ => rfl, fun _ => rfl⟩
  · refine ⟨by simp, by simp, by simp, by simp, by simp, by simp, by simp, by simp, by simp,
      fun _ => by simp [ramAt], fun seg hseg => ?_, fun hno => ?_⟩
    · refine select_bankAt_of_ne 0 fun r ht => ?_
      obtain ⟨hat, hread, hsrc⟩ := triggered_read ht
      exact hseg off r hd hat hread hsrc
    · rw [select_none 0 (triggered_read_eq_none fun r => hno off r hd)]
      rfl

/-- Settles O30: a write changes the block through the selector and through one store. -/
theorem writeFrame : Obligations.WriteFrame := by
  intro s t a v h
  obtain ⟨hcfg, hconf, hwp, hquirk, hdraw, hpend, hports, hdraws⟩ := exec_bus_frame rfl h
  refine ⟨hcfg, hconf, hwp, hquirk, hdraw, hpend, hports, hdraws, ?_⟩
  rcases execWrite_next h with ⟨_, rfl⟩ | ⟨_, _, rfl⟩ | ⟨_, off, u, b, hd, hst, _, rfl⟩
  · exact ⟨fun _ _ => rfl, fun _ _ => rfl, fun _ => rfl⟩
  · exact ⟨fun _ _ => rfl, fun _ _ => rfl, fun _ => rfl⟩
  · obtain ⟨hbank, hlock, hram⟩ := store8_frame hst
    refine ⟨fun j hj => ?_, fun seg hseg => ?_, fun hno => ?_⟩
    · have hsel : ramAt (select s off true v) j = ramAt s j := by simp [ramAt]
      exact (hram j fun i hi => hj off i hd hi).trans hsel
    · have hsel := select_bankAt_of_ne (w := true) v fun r ht => hseg off r hd (triggered_hotAt ht)
      exact (congrArg (·.getD seg 0) hbank).trans hsel
    · have hsel := select_none v (triggered_eq_none (w := true) fun r => hno off r hd)
      exact hlock.trans (congrArg State.locked hsel)

/-- Settles O45: by port; a bus operation by its frame, and the others by what each can do. -/
theorem portsHaveFixedRights : Obligations.PortsHaveFixedRights := by
  intro i s t h
  obtain ⟨hcfg, hconf, hdraw, hpend⟩ := exec_constants h
  refine ⟨hcfg, hconf, hdraw, hpend, ?_⟩
  split
  next hp =>
    obtain ⟨_, _, hwp, hquirk, _⟩ := exec_bus_frame hp h
    exact ⟨hwp, hquirk⟩
  next => trivial
  next hp =>
    cases i <;> simp [Instr.port] at hp
    case save =>
      obtain ⟨_, _, _, _, _, hquirk, hram, _⟩ := (execSave_sameBlock h).1
      exact ⟨hquirk, hram, fun _ => (execSave_sameBlock h).1⟩
    case load =>
      rcases execLoad_next h with ⟨_, rfl⟩ | ⟨_, _, _, _, rfl⟩ | ⟨_, _, rfl⟩ <;> exact ⟨rfl, rfl, nofun⟩
  next hp => exact (exec_sameBlock (.inr (.inl hp)) h).1
  next hp => exact (exec_sameBlock (.inl hp) h).1

end Sys2Proof.Machine

/-! SUPPORT. What the response does not touch, repeating an access, a read that does not trigger, exchanging the ROM
image, and the proofs of the statements about the memory (20_memory.md). -/

namespace Sys2Proof.Machine

/-! The response takes no part in an access -/

theorem switchBank_succeed (s : State) (d : Result) (seg b : Nat) :
    switchBank (s.succeed d) seg b = (switchBank s seg b).succeed d := by
  simp only [switchBank, apply_ite (State.succeed · d)]
  rfl

theorem select_succeed (s : State) (d : Result) (off : Nat) (w : Bool) (v : Byte) :
    select (s.succeed d) off w v = (select s off w v).succeed d := by
  rcases ht : triggered s.cfg off w with _ | r
  · rw [select_none v ht, select_none (s := s.succeed d) v ht]
  · rw [select_some v ht, select_some (s := s.succeed d) v ht]
    exact switchBank_succeed s d r.seg _

/-! Repeating an access -/

/-- A second switch to the same bank finds it mapped (R72). -/
theorem switchBank_switchBank (s : State) {seg : Nat} (hlen : seg < s.currentBank.length) (b : Nat) :
    switchBank (switchBank s seg b) seg b = switchBank s seg b := by
  rcases switchBank_cases s seg b with ⟨_, he⟩ | ⟨_, _, hcase⟩
  · rw [he, he]
  · have hmap : b = (s.setBank seg b).bankAt seg := by simp [bankAt_setBank, hlen]
    rcases hcase with ⟨_, he⟩ | ⟨_, he⟩
    · rw [he]
      simp [switchBank]
    · rw [he, switchBank, if_pos hmap, ite_self]

/-- Selecting again at once changes nothing further (R42, R72). -/
theorem select_select {s : State} (hi : s.Inv) (hc : s.configured = true) (off : Nat) (w : Bool) (v : Byte) :
    select (select s off w v) off w v = select s off w v := by
  rcases ht : triggered s.cfg off w with _ | r
  · rw [select_none v ht, select_none v ht]
  · obtain ⟨_, _, hseg⟩ := Cfg.wf_hot (Inv.wf hi hc) (triggered_hotAt ht).1
    have ht' : triggered (select s off w v).cfg off w = some r := by rw [select_cfg, ht]
    rw [select_some v ht', select_cfg, select_some v ht]
    exact switchBank_switchBank s (by rwa [Inv.banks_length hi hc]) _

/-! A read that does not trigger -/

/-- A read that does not trigger answers the mapped byte and changes nothing (R42, R92). -/
theorem execRead_plain {s : State} (hi : s.Inv) (hc : s.configured = true) {a : BusAddr} {off : Nat}
    (hd : decodeAddr s.cfg a = some off) (ht : triggered s.cfg off false = none) :
    execRead a s = .next (s.succeed (.byte (byteAt s (kindAt s.cfg off) (phys s off)))) := by
  rw [execRead_handled hi hc hd, select_none 0 ht]

/-! Stores into RAM -/

@[simp] theorem select_wpAt (s : State) (off : Nat) (w : Bool) (v : Byte) (seg : Nat) :
    (select s off w v).wpAt seg = s.wpAt seg := by
  simp [State.wpAt]

theorem wpAt_eq_false_iff (s : State) (seg : Nat) :
    s.wpAt seg = false ↔ s.cfg.hasWp = false ∨ s.wp.getD seg false = false :=
  Bool.and_eq_false_iff

/-- Where a write into writable RAM stores (R83): at the index of the bank as the selector left it. -/
theorem storeIndex_select {s : State} {off : Nat} (hk : kindAt s.cfg off = .ram)
    (hwp : s.wpAt (segOf s.cfg off) = false) (v : Byte) :
    storeIndex (select s off true v) off = some (phys (select s off true v) off) :=
  (storeIndex_eq_some_iff _ _ _).mpr ⟨by simpa using hk, by simpa using hwp, rfl⟩

/-- A store leaves the configuration as it was (R57, R83). -/
theorem store8_cfg {s u : State} {off : Nat} {v : Byte} (h : store8 s off v = some u) :
    u.cfg = s.cfg ∧ u.configured = s.configured := by
  rcases store8_cases h with ⟨_, rfl⟩ | ⟨i, _, _, rfl⟩ <;> exact ⟨rfl, rfl⟩

/-! Exchanging the ROM image -/

/-- The block with another image. -/
def State.withImage (s : State) (image : Memory) (free : Nat) : State :=
  { s with cfg := { s.cfg with image := image, imageFree := free } }

/-- The other image agrees with that of the configuration in all banks (R37). -/
def SameBanks (c : Cfg) (image : Memory) (free : Nat) : Prop :=
  ∀ k < c.bankCount * c.bankSize, imageAt { c with image := image, imageFree := free } k = imageAt c k

/-- An outcome with `f` applied to the next state, if there is one. -/
def mapNext (f : State → State) : Host.Outcome State Fault Refusal → Host.Outcome State Fault Refusal
  | .next s => .next (f s)
  | .fault r => .fault r
  | .refused r => .refused r

section
variable (s : State) (image : Memory) (free : Nat)

theorem switchBank_withImage (seg b : Nat) :
    switchBank (s.withImage image free) seg b = (switchBank s seg b).withImage image free := by
  simp only [switchBank, apply_ite (State.withImage · image free)]
  rfl

/-- The selector reads no image byte (R71). -/
theorem select_withImage (off : Nat) (w : Bool) (v : Byte) :
    select (s.withImage image free) off w v = (select s off w v).withImage image free := by
  rcases ht : triggered s.cfg off w with _ | r
  · rw [select_none v ht, select_none (s := s.withImage image free) v ht]
  · rw [select_some v ht, select_some (s := s.withImage image free) v ht]
    exact switchBank_withImage s image free r.seg _

/-- The store reads no image byte (R83). -/
theorem store8_withImage (off : Nat) (v : Byte) :
    store8 (s.withImage image free) off v = (store8 s off v).map (·.withImage image free) := by
  have hidx : storeIndex (s.withImage image free) off = storeIndex s off := rfl
  have hsize : storeSize (s.withImage image free).cfg .ram = storeSize s.cfg .ram := rfl
  simp only [store8, hidx, hsize]
  rcases storeIndex s off with _ | i
  · rfl
  · by_cases hlt : i < storeSize s.cfg .ram
    · simp only [if_pos hlt]
      rfl
    · simp only [if_neg hlt]
      rfl

/-- The check of `configured` reads no image byte (R127). -/
theorem whenConfigured_withImage {k k' : Host.Outcome State Fault Refusal}
    (h : s.configured = true → k' = mapNext (·.withImage image free) k) :
    whenConfigured (s.withImage image free) k' = mapNext (·.withImage image free) (whenConfigured s k) := by
  by_cases hc : s.configured = true
  · rw [whenConfigured_true hc, whenConfigured_true (s := s.withImage image free) hc, h hc]
  · have hc' : s.configured = false := by simpa using hc
    rw [whenConfigured_false hc', whenConfigured_false (s := s.withImage image free) hc']
    rfl

theorem execSave_withImage :
    execSave (s.withImage image free) = mapNext (·.withImage image free) (execSave s) := by
  refine whenConfigured_withImage s image free fun _ => ?_
  have happ : appendAll (s.withImage image free).ports (fieldList (s.withImage image free)) =
    appendAll s.ports (fieldList s) := rfl
  rw [happ]
  rcases appendAll s.ports (fieldList s) with _ | out <;> rfl

theorem execLoad_withImage :
    execLoad (s.withImage image free) = mapNext (·.withImage image free) (execLoad s) := by
  refine whenConfigured_withImage s image free fun _ => ?_
  have hstage : stage (s.withImage image free).cfg (s.withImage image free).ports.inStream =
    stage s.cfg s.ports.inStream := rfl
  rw [hstage]
  rcases stage s.cfg s.ports.inStream with _ | ⟨b, rest⟩ <;> rfl

end

section
variable {s : State} {image : Memory} {free : Nat} (hi : s.Inv)
include hi

/-- An access reaches the image inside the banks only (R36, R37). -/
theorem byteAt_withImage (hb : SameBanks s.cfg image free) (hc : s.configured = true) {off : Nat}
    (ho : off < s.cfg.windowSize) :
    byteAt (s.withImage image free) (kindAt s.cfg off) (phys s off) =
      byteAt s (kindAt s.cfg off) (phys s off) := by
  have hlt : phys s off < s.cfg.kindBanks (kindAt s.cfg off) * s.cfg.bankSize := phys_lt hi hc ho
  cases hk : kindAt s.cfg off with
  | rom =>
    rw [hk] at hlt
    exact hb _ hlt
  | ram => rfl

theorem answerByte_withImage (hb : SameBanks s.cfg image free) (hc : s.configured = true) {off : Nat}
    (ho : off < s.cfg.windowSize) :
    answerByte (s.withImage image free) off = mapNext (·.withImage image free) (answerByte s off) := by
  have hload : load8 (s.withImage image free) off = load8 s off := by
    rw [load8_eq hi hc ho, ← byteAt_withImage hi hb hc ho]
    exact if_pos (phys_lt_storeSize hi hc ho)
  rw [answerByte, answerByte, hload]
  rcases load8 s off with _ | b <;> rfl

theorem execRead_withImage (hb : SameBanks s.cfg image free) (a : BusAddr) :
    execRead a (s.withImage image free) = mapNext (·.withImage image free) (execRead a s) := by
  refine whenConfigured_withImage s image free fun hc => ?_
  have hdec : decodeAddr (s.withImage image free).cfg a = decodeAddr s.cfg a := rfl
  rw [hdec]
  rcases hd : decodeAddr s.cfg a with _ | off
  · rfl
  · simp only [select_withImage]
    exact answerByte_withImage (select_inv hi off false 0) (by rwa [select_cfg]) (by rwa [select_configured])
      (by rw [select_cfg]; exact decodeAddr_lt hd)

theorem execWrite_withImage (hb : SameBanks s.cfg image free) (a : BusAddr) (v : Byte) :
    execWrite a v (s.withImage image free) = mapNext (·.withImage image free) (execWrite a v s) := by
  refine whenConfigured_withImage s image free fun hc => ?_
  have hdec : decodeAddr (s.withImage image free).cfg a = decodeAddr s.cfg a := rfl
  rw [hdec]
  rcases hd : decodeAddr s.cfg a with _ | off
  · rfl
  · simp only [select_withImage, store8_withImage]
    rcases hst : store8 (select s off true v) off v with _ | u
    · rfl
    · obtain ⟨hcfg, hconf⟩ := store8_cfg hst
      have hcfg' : u.cfg = s.cfg := by rw [hcfg, select_cfg]
      exact answerByte_withImage (store8_inv (select_inv hi off true v) hst) (by rwa [hcfg'])
        (by rwa [hconf, select_configured]) (by rw [hcfg']; exact decodeAddr_lt hd)

/-- Exchanging the image outside the banks commutes with every operation (R37). -/
theorem exec_withImage (hb : SameBanks s.cfg image free) (i : Instr) :
    exec i (s.withImage image free) = mapNext (·.withImage image free) (exec i s) := by
  rcases instr_kinds i with (hp | hp | rfl) | hp | rfl | rfl | rfl
  · rw [exec_reserved hp, exec_reserved hp]
    rfl
  · cases i <;> simp [Instr.port] at hp
    case qbank => exact whenConfigured_withImage s image free fun _ => rfl
    case qlock => exact whenConfigured_withImage s image free fun _ => rfl
  · exact execSave_withImage s image free
  · cases i <;> simp [Instr.port] at hp
    case read a => exact execRead_withImage hi hb a
    case write a v => exact execWrite_withImage hi hb a v
  · exact whenConfigured_withImage s image free fun _ => rfl
  · exact whenConfigured_withImage s image free fun _ => rfl
  · exact execLoad_withImage s image free

end

/-! The statements -/

/-- Settles O28: the write stored at the index of the bank as the selector left it, the read of a mirror has the same
offset and leaves the selector alone, so it reads that index. -/
theorem ramReadAnswersTheLatestWrite : Obligations.RamReadAnswersTheLatestWrite := by
  intro s t a a' v off hi hc hd hk hwp hmirror hplain h
  obtain ⟨hcfg, hconf, _⟩ := exec_constants h
  have hidx := storeIndex_select hk ((wpAt_eq_false_iff _ _).mpr hwp) v
  have ht : t = ((select s off true v).writeRam (phys (select s off true v) off) v).succeed (.byte v) :=
    Host.Outcome.next.inj (h.symm.trans (execWrite_stored hi hc v hd hidx))
  have hd' : decodeAddr t.cfg a' = some off := by rw [hcfg, ← decodeAddr_congr hmirror, hd]
  have hnone : triggered t.cfg off false = none := by rw [hcfg]; exact triggered_read_eq_none hplain
  have hkind : kindAt t.cfg off = .ram := by rw [hcfg]; exact hk
  have hbyte : ramAt t (phys t off) = v := by
    rw [ht]
    exact ramAt_writeRam_same _ _ v
  have hread := execRead_plain (exec_inv hi h) (hconf.trans hc) hd' hnone
  rw [hkind, byteAt, hbyte] at hread
  exact hread

/-- Settles O31: the second read's selector finds the target bank mapped or the block locked, so its data phase is the
first one's. -/
theorem repeatedReadIsIdempotent : Obligations.RepeatedReadIsIdempotent := by
  intro s t a hi h
  rcases execRead_next h with ⟨hc, rfl⟩ | ⟨hc, hd, rfl⟩ | ⟨hc, off, _, hd, _, _⟩
  · exact whenConfigured_false hc _
  · exact execRead_notHandled (s := s.raise .notHandled) hc hd
  · have hui : (select s off false 0).Inv := select_inv hi off false 0
    have huc : (select s off false 0).configured = true := by rwa [select_configured]
    have hud : decodeAddr (select s off false 0).cfg a = some off := by rwa [select_cfg]
    cases (execRead_handled hi hc hd).symm.trans h
    refine (execRead_handled (s := (select s off false 0).succeed _) hui huc hud).trans ?_
    rw [select_succeed, select_select hi hc, State.succeed_cfg, select_cfg]
    rfl

/-- Settles O33: the mapped bank is below the segment's bank count and the rest of the index below the bank size; the
store holds all banks of its kind. -/
theorem physicalIndexIsInRange : Obligations.PhysicalIndexIsInRange := by
  intro s off hi hc ho
  have hstore := phys_lt_storeSize hi hc ho
  refine ⟨phys_lt hi hc ho, fun hk => ?_, fun hk => ?_⟩
  · rwa [show kindAt s.cfg off = .rom from hk] at hstore
  · rwa [show kindAt s.cfg off = .ram from hk] at hstore

/-- Settles O34: exchanging the image outside the banks commutes with every operation. -/
theorem imageTailIsUnreachable : Obligations.ImageTailIsUnreachable := by
  intro s t i image free hi hagree h
  have hcomm := exec_withImage (image := image) (free := free) hi hagree i
  rw [h] at hcomm
  exact hcomm

/-- Settles O14: the decoder answers none, so neither the selector nor the data phase runs. -/
theorem accessOutsideTheWindowIsNotHandled : Obligations.AccessOutsideTheWindowIsNotHandled := by
  intro s a v hc hout
  have hd : decodeAddr s.cfg a = none := (decodeAddr_eq_none_iff s.cfg a).mpr hout
  exact ⟨execRead_notHandled hc hd, execWrite_notHandled hc v hd⟩

end Sys2Proof.Machine

/-! SUPPORT. The local offset as a distance, access by the local offset alone, and the proofs of the statements about
the address decoder (40_address_decoder.md). -/

namespace Sys2Proof.Machine

/-- The local offset is the distance of the folded address from the base (R61). -/
theorem windowBase_add_of_decodeAddr {c : Cfg} {a : BusAddr} {off : Nat} (h : decodeAddr c a = some off) :
    c.windowBase.toNat + off = (a &&& c.mirrorMask).toNat := by
  obtain ⟨hbase, _, rfl⟩ := (decodeAddr_eq_some_iff c a off).mp h
  exact Nat.add_sub_of_le hbase

/-! An access sees its address through the decoder only (R64) -/

section
variable {s : State} {a a' : BusAddr} (h : decodeAddr s.cfg a = decodeAddr s.cfg a')
include h

theorem execRead_congr : execRead a s = execRead a' s := by
  rw [execRead, execRead, h]

theorem execWrite_congr (v : Byte) : execWrite a v s = execWrite a' v s := by
  rw [execWrite, execWrite, h]

end

/-! The statements -/

/-- Settles O15: the decoder answers none exactly on the two sides of the window; inside it the offset is the distance
from the base. -/
theorem decoderAnswersAnOffsetOfTheWindow : Obligations.DecoderAnswersAnOffsetOfTheWindow := by
  intro c a
  refine ⟨?_, fun off hd => ⟨decodeAddr_lt hd, windowBase_add_of_decodeAddr hd⟩⟩
  rw [decodeAddr_eq_none_iff, not_and_or, not_le, not_lt]

/-- Settles O16: mirrors decode to one offset, and an access sees its address through the decoder only. -/
theorem mirrorsAreIndistinguishable : Obligations.MirrorsAreIndistinguishable := by
  intro s a a' v hmirror
  have hd : decodeAddr s.cfg a = decodeAddr s.cfg a' := decodeAddr_congr hmirror
  exact ⟨hd, execRead_congr hd, execWrite_congr hd v⟩

end Sys2Proof.Machine

/-! SUPPORT. What a switch leaves behind, what a bus operation can do to the bank registers and the lock, what every
write in the window answers, and the proofs of the statements about the bank selector (41_bank_selector.md). -/

namespace Sys2Proof.Machine

/-! The switch of an unlocked block, and the selection of the mapped bank -/

/-- A switch that is performed maps the bank and sets the lock as the effective policy says (R71, R74). -/
theorem switchBank_performed {s : State} (hl : s.locked = false) {seg b : Nat} (hb : b ≠ s.bankAt seg) :
    switchBank s seg b = (s.setBank seg b).setLocked (setsLock s.effPolicy b) := by
  rcases switchBank_cases s seg b with ⟨hstay, _⟩ | ⟨_, _, ⟨hset, he⟩ | ⟨hfree, he⟩⟩
  · simp [hl, hb] at hstay
  · rw [he, hset]
  · rw [he, hfree, ← hl]
    rfl

/-- The selector leaves the block alone or performs one switch of an unlocked block (R71). -/
theorem select_stays_or_switches (s : State) (off : Nat) (w : Bool) (v : Byte) :
    select s off w v = s ∨
    ∃ h b, HotAt s.cfg h off ∧ s.locked = false ∧ b ≠ s.bankAt h.seg ∧
      select s off w v = (s.setBank h.seg b).setLocked (setsLock s.effPolicy b) := by
  rcases select_cases s off w v with ⟨he, _⟩ | ⟨h, ht, he⟩
  · exact .inl he
  · rcases switchBank_cases s h.seg (target s.cfg h off v) with ⟨_, hs⟩ | ⟨hl, hb, _⟩
    · exact .inl (he.trans hs)
    · exact .inr ⟨h, _, triggered_hotAt ht, hl, hb, he.trans (switchBank_performed hl hb)⟩

/-- Selecting the mapped bank changes nothing, whether the access triggers or not (R72, R75). -/
theorem select_mapped {s : State} (hw : s.cfg.wf = true) {off : Nat} {h : HotRange} (hat : HotAt s.cfg h off)
    {v : Byte} (hmap : target s.cfg h off v = s.bankAt h.seg) (w : Bool) : select s off w v = s := by
  rcases select_cases s off w v with ⟨he, _⟩ | ⟨r, ht, he⟩
  · exact he
  · obtain rfl : r = h := hotAt_unique hw (triggered_hotAt ht) hat
    rw [he, switchBank, if_pos hmap, ite_self]

/-! Bus operations -/

/-- A bus operation ends without an access, or leaves the bank registers and the lock as the selector left them: the
data phase touches neither (R91). -/
theorem exec_bus_select {i : Instr} {s t : State} (hp : Instr.port i = some .bus) (h : exec i s = .next t) :
    (t.currentBank = s.currentBank ∧ t.locked = s.locked) ∨
    (s.configured = true ∧ ∃ off w v,
      t.currentBank = (select s off w v).currentBank ∧ t.locked = (select s off w v).locked) := by
  rcases exec_bus_next hp h with ⟨o, rfl⟩ | ⟨hc, off, w, v, d, rfl | ⟨k, _, rfl⟩⟩
  · exact .inl ⟨rfl, rfl⟩
  · exact .inr ⟨hc, off, w, v, rfl, rfl⟩
  · exact .inr ⟨hc, off, w, v, rfl, rfl⟩

/-- A bus operation leaves the bank registers and the lock alone, or performs one switch of an unlocked block. -/
theorem exec_bus_stays_or_switches {i : Instr} {s t : State} (hi : s.Inv) (hp : Instr.port i = some .bus)
    (h : exec i s = .next t) :
    (t.currentBank = s.currentBank ∧ t.locked = s.locked) ∨
    (s.locked = false ∧ ∃ seg b, b ≠ s.bankAt seg ∧ t.locked = setsLock s.effPolicy b ∧
      ∀ seg', t.bankAt seg' = if seg' = seg then b else s.bankAt seg') := by
  rcases exec_bus_select hp h with hstay | ⟨hc, off, w, v, hbank, hlock⟩
  · exact .inl hstay
  · rcases select_stays_or_switches s off w v with he | ⟨r, b, hat, hl, hb, he⟩
    · rw [he] at hbank hlock
      exact .inl ⟨hbank, hlock⟩
    · rw [he] at hbank hlock
      obtain ⟨_, _, hseg⟩ := Cfg.wf_hot (Inv.wf hi hc) hat.1
      rw [← Inv.banks_length hi hc] at hseg
      refine .inr ⟨hl, r.seg, b, hb, hlock, fun seg' => ?_⟩
      have hset : t.bankAt seg' = (s.setBank r.seg b).bankAt seg' := congrArg (·.getD seg' 0) hbank
      rw [hset, bankAt_setBank]
      simp only [hseg, and_true]

/-- Every write in the window completes with `OK`, with the bank registers and the lock as the selector left them
(R94). -/
theorem exec_write_handled {s : State} (hi : s.Inv) (hc : s.configured = true) {a : BusAddr} {off : Nat} (v : Byte)
    (hd : decodeAddr s.cfg a = some off) :
    ∃ t, exec (.write a v) s = .next t ∧ t.response.status = .ok ∧
      t.currentBank = (select s off true v).currentBank ∧ t.locked = (select s off true v).locked := by
  rcases hidx : storeIndex (select s off true v) off with _ | k
  · exact ⟨_, execWrite_rejected hi hc v hd hidx, rfl, rfl, rfl⟩
  · exact ⟨_, execWrite_stored hi hc v hd hidx, rfl, rfl, rfl⟩

/-! The lock -/

/-- A bus operation that switches a segment to a bank other than 0 under self-locking leaves the block locked (R74). -/
theorem exec_bus_switch_locks {i : Instr} {s t : State} (hi : s.Inv) (hpol : s.effPolicy = .selfLocking)
    (hp : Instr.port i = some .bus) (h : exec i s = .next t) {seg : Nat} (hne : t.bankAt seg ≠ s.bankAt seg)
    (h0 : t.bankAt seg ≠ 0) : t.locked = true := by
  rcases exec_bus_stays_or_switches hi hp h with ⟨hbank, _⟩ | ⟨_, seg', b, _, hlock, hbank⟩
  · exact absurd (congrArg (·.getD seg 0) hbank) hne
  · by_cases hs : seg = seg'
    · have hb : t.bankAt seg = b := by rw [hbank, if_pos hs]
      simpa [hlock, hpol, setsLock, ← hb] using h0
    · exact absurd (by rw [hbank, if_neg hs]) hne

/-- A bus operation that locks has switched a segment to a bank other than 0 under a policy that locks (R74, R77). -/
theorem exec_bus_locks {i : Instr} {s t : State} (hi : s.Inv) (hp : Instr.port i = some .bus)
    (h : exec i s = .next t) (hl : s.locked = false) (hl' : t.locked = true) :
    s.quirk = true ∧ s.cfg.lockPolicy ≠ .none ∧ ∃ seg, t.bankAt seg ≠ s.bankAt seg ∧ t.bankAt seg ≠ 0 := by
  rcases exec_bus_stays_or_switches hi hp h with ⟨_, hlock⟩ | ⟨_, seg, b, hb, hlock, hbank⟩
  · simp [hlock, hl] at hl'
  · rw [hlock, setsLock_effPolicy, decide_eq_true_eq] at hl'
    obtain ⟨hq, hpol, hb0⟩ := hl'
    have hmap : t.bankAt seg = b := by rw [hbank, if_pos rfl]
    exact ⟨hq, hpol, seg, hmap ▸ hb, hmap ▸ hb0⟩

/-- `UNLOCK` never locks (R98). -/
theorem lockAfterUnlock_false (p : LockPolicy) : lockAfterUnlock p false = false := by
  cases p <;> rfl

/-! The statements -/

/-- Settles O49: the switch leaves the block locked, and from a locked state no bus run changes a bank register. -/
theorem firstSwitchIsTheLast : Obligations.FirstSwitchIsTheLast := by
  intro i s t hi hpol hp h ⟨seg, hne, h0⟩ hbus n u hrun
  have hlock : t.locked = true := exec_bus_switch_locks hi hpol hp h hne h0
  exact lockHoldsUntilAnUnlockCondition.1 n t u hlock (fun r hr => .inl (hbus r hr)) hrun

/-- Settles O18: the lookup answers a range that holds the offset, and the ranges are disjoint. -/
theorem hotLookupFindsTheOneRange : Obligations.HotLookupFindsTheOneRange := by
  intro c off hw
  refine ⟨fun h => ⟨hotLookup_some, hotLookup_of_hotAt hw⟩, ⟨hotLookup_none, fun hno => ?_⟩,
    fun h h' => hotAt_unique hw⟩
  exact Option.eq_none_iff_forall_ne_some.mpr fun h hh => hno h (hotLookup_some hh)

/-- Settles O22: a write triggers in every hot range, the switch is performed, and the data phase touches neither
bank registers nor lock. -/
theorem hotWriteSwitches : Obligations.HotWriteSwitches := by
  rintro s a v off h b hi hc hd hat hl rfl hb
  obtain ⟨t, hex, hok, hbank, hlock⟩ := exec_write_handled hi hc v hd
  have ht : triggered s.cfg off true = some h := by
    rw [triggered_write_eq, hotLookup_of_hotAt (Inv.wf hi hc) hat]
  rw [select_some v ht, switchBank_performed hl hb] at hbank hlock
  exact ⟨t, hex, hok, hbank, hlock.trans (setsLock_effPolicy s _), exec_bus_frame rfl hex⟩

/-- Settles O24: the selector finds the target mapped and leaves the block alone; the data phase follows. -/
theorem reselectingTheMappedBankChangesNothing : Obligations.ReselectingTheMappedBankChangesNothing := by
  intro s a v off h hi hc hd hat
  refine ⟨fun hmap => ?_, fun hmap => ?_⟩
  · have hread := execRead_handled hi hc hd
    rw [select_mapped (Inv.wf hi hc) hat hmap] at hread
    exact hread
  · obtain ⟨t, hex, hok, hbank, hlock⟩ := exec_write_handled hi hc v hd
    rw [select_mapped (Inv.wf hi hc) hat hmap] at hbank hlock
    obtain ⟨hcfg, hconf, hwp, hquirk, hrest⟩ := exec_bus_frame rfl hex
    exact ⟨t, hex, hok, hbank, hlock, hwp, hquirk, hcfg, hconf, hrest⟩

/-- Settles O47: by the kind of the operation; of those outside the bus only `LOAD` can set the lock. -/
theorem onlySwitchesAndLoadsLock : Obligations.OnlySwitchesAndLoadsLock := by
  intro i s t hi h hl hl'
  rcases instr_kinds i with hp | hp | rfl | rfl | rfl
  · obtain ⟨⟨_, _, _, hlock, _⟩, _⟩ := exec_sameBlock hp h
    simp [hlock, hl] at hl'
  · exact .inl ⟨hp, exec_bus_locks hi hp h hl hl'⟩
  · rcases execReset_next h with ⟨_, rfl⟩ | ⟨_, rfl⟩ <;> simp [hl] at hl'
  · rcases execUnlock_next h with ⟨_, rfl⟩ | ⟨_, rfl⟩ <;> simp [hl, lockAfterUnlock_false] at hl'
  · rcases execLoad_next h with ⟨_, rfl⟩ | ⟨_, b, rest, hs, rfl⟩ | ⟨_, _, rfl⟩
    · simp [hl] at hl'
    · exact .inr ⟨rfl, b, rest, hs, hl'⟩
    · simp [hl] at hl'

/-- Settles O19: the raw number by the source of the range, reduced by a positive bank count. -/
theorem targetBankIsReduced : Obligations.TargetBankIsReduced := by
  intro c h off v hw _
  refine ⟨fun hsrc => ?_, fun hsrc => ?_, fun hsrc => ?_, target_lt hw h off v⟩ <;> rw [target, rawBank, hsrc]

end Sys2Proof.Machine

/-! SUPPORT. What the configuration keeps over a run, the fast path by whether a read would trigger, what a write that
stores nothing answers and leaves unchanged, and the proofs of the statements about the banked memory
(42_banked_memory.md). -/

namespace Sys2Proof.Machine

/-! The configuration over a run -/

/-- No step changes the configuration (R57, R89). -/
theorem step_keeps_cfg {s t : State} (h : step s = .next t) : t.cfg = s.cfg ∧ t.configured = s.configured := by
  rcases step_next h with ⟨_, rfl⟩ | ⟨r, rest, _, hex⟩
  · exact ⟨rfl, rfl⟩
  · obtain ⟨hcfg, hconf, _⟩ := exec_constants hex
    exact ⟨hcfg, hconf⟩

/-- No run changes the configuration (R57, R89). -/
theorem run_keeps_cfg {n : Nat} {s t : State} (h : Sys2Proof.core.run n s = .next t) :
    t.cfg = s.cfg ∧ t.configured = s.configured := by
  refine run_keeps (P := fun u => u.cfg = s.cfg ∧ u.configured = s.configured) ?_ n s t ⟨rfl, rfl⟩ h
  rintro u u' ⟨hcfg, hconf⟩ hstep
  obtain ⟨hcfg', hconf'⟩ := step_keeps_cfg hstep
  exact ⟨hcfg'.trans hcfg, hconf'.trans hconf⟩

/-! The fast path -/

/-- A read in a range that reads trigger triggers it (R69). -/
theorem triggered_read_of_hotAt {c : Cfg} (hw : c.wf = true) {off : Nat} {h : HotRange} (hat : HotAt c h off)
    (hread : c.hotOnRead = true) (hsrc : h.source ≠ .data) : triggered c off false = some h :=
  (triggered_eq_some_iff c off false h).mpr ⟨hotLookup_of_hotAt hw hat, (triggers_read c h).mpr ⟨hread, hsrc⟩⟩

section
variable {s : State} (hc : s.configured = true) {a : BusAddr} {off : Nat} (hd : decodeAddr s.cfg a = some off)
include hc hd

/-- The fast path gives nothing where a read would trigger (R88, R145). -/
theorem fastRead_triggered {h : HotRange} (ht : triggered s.cfg off false = some h) : fastRead s a = none := by
  simp only [fastRead, if_pos hc, hd, ht]

/-- Elsewhere the fast path gives the mapped byte: the base in the snapshot and the position inside the segment make
the physical index (R87, R88). -/
theorem fastRead_plain (ht : triggered s.cfg off false = none) :
    fastRead s a = some (byteAt s (kindAt s.cfg off) (phys s off)) := by
  simp only [fastRead, if_pos hc, hd, ht]
  rfl

end

/-! Writes that store nothing -/

section
variable (s : State) (off : Nat) (w : Bool) (v : Byte)

/-- The selector changes no byte of RAM (R71). -/
@[simp] theorem ramAt_select (i : Nat) : ramAt (select s off w v) i = ramAt s i := by
  simp [ramAt]

/-- The selector changes no byte of either store (R71). -/
@[simp] theorem byteAt_select (k : SegKind) (i : Nat) : byteAt (select s off w v) k i = byteAt s k i := by
  cases k with
  | rom => simp [byteAt]
  | ram => simp [byteAt]

end

/-- A write that stores nothing answers the byte that stays at the location in the bank as the selector left it, and
changes no byte of RAM (R38, R84, R85). -/
theorem exec_write_rejected {s : State} (hi : s.Inv) (hc : s.configured = true) {a : BusAddr} {off : Nat} (v : Byte)
    (hd : decodeAddr s.cfg a = some off) (hidx : storeIndex (select s off true v) off = none) :
    ∃ t, exec (.write a v) s = .next t ∧
      t.response = ⟨.ok, .byte (byteAt s (kindAt s.cfg off)
        (t.bankAt (segOf s.cfg off) * s.cfg.bankSize + segOffset s.cfg off))⟩ ∧
      t.ram = s.ram ∧ (∀ i, ramAt t i = ramAt s i) ∧
      t.currentBank = (select s off true v).currentBank ∧ t.locked = (select s off true v).locked := by
  refine ⟨_, execWrite_rejected hi hc v hd hidx, ?_, select_ram s off true v, ramAt_select s off true v, rfl, rfl⟩
  rw [byteAt_select, phys, select_cfg]
  rfl

/-! The statements -/

/-- Settles O25: a ROM segment has no store index, whatever the selector did; the rest is the frame of the bus. -/
theorem writeToRomStoresNothing : Obligations.WriteToRomStoresNothing := by
  intro s a v off hi hc hd hk
  have hkind : kindAt s.cfg off = .rom := hk
  have hidx : storeIndex (select s off true v) off = none :=
    (storeIndex_eq_none_iff _ off).mpr (.inl (by rwa [select_cfg]))
  obtain ⟨t, hex, hresp, hram, hbytes, hbank, hlock⟩ := exec_write_rejected hi hc v hd hidx
  obtain ⟨hcfg, hconf, hwp, hquirk, hdraw, hpend, hports, hdraws⟩ := exec_bus_frame rfl hex
  rw [hkind] at hresp
  exact ⟨t, hex, hresp, fun i => by rw [hcfg], hbytes, hcfg, hram, hbank, hlock, hconf, hwp, hquirk, hdraw, hpend,
    hports, hdraws⟩

/-- Settles O32: by whether a read triggers; where it does not, the fast path and `READ` index the store alike. -/
theorem fastPathAgreesWithRead : Obligations.FastPathAgreesWithRead := by
  intro s a off hi hc hd
  refine ⟨fun ⟨h, hat, hread, hsrc⟩ => ?_, fun hplain => ?_⟩
  · exact fastRead_triggered hc hd (triggered_read_of_hotAt (Inv.wf hi hc) hat hread hsrc)
  · have ht : triggered s.cfg off false = none := triggered_read_eq_none hplain
    exact ⟨_, fastRead_plain hc hd ht, execRead_plain hi hc hd ht⟩

/-- Settles O35: every run keeps the configuration, and the image is a part of it. -/
theorem configurationNeverChanges : Obligations.ConfigurationNeverChanges := by
  intro n s t h
  obtain ⟨hcfg, hconf⟩ := run_keeps_cfg h
  exact ⟨hcfg, hconf, fun i => by rw [hcfg]⟩

end Sys2Proof.Machine

/-! SUPPORT. What the queries do to every block, that no operation but `RESET` reads the level of `SET_QUIRK` and none
reads the response, and the proofs of the statements about the cartridge scheme (43_cartridge_scheme.md). -/

namespace Sys2Proof.Machine

/-! What no operation reads -/

/-- The block with another level of `SET_QUIRK` at the ports and another response. -/
def State.mapUnread (g : Bool → Bool) (r : Response → Response) (s : State) : State :=
  { s with ports := { s.ports with setQuirk := g s.ports.setQuirk }, response := r s.response }

section
variable (g : Bool → Bool) (r : Response → Response) (s : State)

theorem switchBank_mapUnread (seg b : Nat) :
    switchBank (s.mapUnread g r) seg b = (switchBank s seg b).mapUnread g r := by
  simp only [switchBank, apply_ite (State.mapUnread g r)]
  rfl

/-- The selector reads neither the setting nor the response (R71, R102). -/
theorem select_mapUnread (off : Nat) (w : Bool) (v : Byte) :
    select (s.mapUnread g r) off w v = (select s off w v).mapUnread g r := by
  rcases ht : triggered s.cfg off w with _ | h
  · rw [select_none v ht, select_none (s := s.mapUnread g r) v ht]
  · rw [select_some v ht, select_some (s := s.mapUnread g r) v ht]
    exact switchBank_mapUnread g r s h.seg _

/-- The store reads neither the setting nor the response (R83, R102). -/
theorem store8_mapUnread (off : Nat) (v : Byte) :
    store8 (s.mapUnread g r) off v = (store8 s off v).map (·.mapUnread g r) := by
  have hidx : storeIndex (s.mapUnread g r) off = storeIndex s off := rfl
  have hcfg : (s.mapUnread g r).cfg = s.cfg := rfl
  simp only [store8, hidx, hcfg]
  rcases storeIndex s off with _ | i
  · rfl
  · by_cases hlt : i < storeSize s.cfg .ram
    · simp only [if_pos hlt]
      rfl
    · simp only [if_neg hlt]
      rfl

/-- The answer of an access replaces the response and keeps the setting (R92, R95). -/
theorem answerByte_mapUnread (off : Nat) :
    answerByte (s.mapUnread g r) off = mapNext (State.mapUnread g id) (answerByte s off) := by
  have hload : load8 (s.mapUnread g r) off = load8 s off := rfl
  rw [answerByte, answerByte, hload]
  rcases load8 s off with _ | b <;> rfl

/-- The check of `configured` reads neither the setting nor the response (R127). -/
theorem whenConfigured_mapUnread {k k' : Host.Outcome State Fault Refusal}
    (h : k' = mapNext (State.mapUnread g id) k) :
    whenConfigured (s.mapUnread g r) k' = mapNext (State.mapUnread g id) (whenConfigured s k) := by
  by_cases hc : s.configured = true
  · rw [whenConfigured_true hc, whenConfigured_true (s := s.mapUnread g r) hc, h]
  · have hc' : s.configured = false := by simpa using hc
    rw [whenConfigured_false hc', whenConfigured_false (s := s.mapUnread g r) hc']
    rfl

theorem execRead_mapUnread (a : BusAddr) :
    execRead a (s.mapUnread g r) = mapNext (State.mapUnread g id) (execRead a s) := by
  refine whenConfigured_mapUnread g r s ?_
  have hdec : decodeAddr (s.mapUnread g r).cfg a = decodeAddr s.cfg a := rfl
  rw [hdec]
  rcases decodeAddr s.cfg a with _ | off
  · rfl
  · simp only [select_mapUnread]
    exact answerByte_mapUnread g r (select s off false 0) off

theorem execWrite_mapUnread (a : BusAddr) (v : Byte) :
    execWrite a v (s.mapUnread g r) = mapNext (State.mapUnread g id) (execWrite a v s) := by
  refine whenConfigured_mapUnread g r s ?_
  have hdec : decodeAddr (s.mapUnread g r).cfg a = decodeAddr s.cfg a := rfl
  rw [hdec]
  rcases decodeAddr s.cfg a with _ | off
  · rfl
  · simp only [select_mapUnread, store8_mapUnread]
    rcases store8 (select s off true v) off v with _ | u
    · rfl
    · exact answerByte_mapUnread g r u off

theorem execSave_mapUnread :
    execSave (s.mapUnread g r) = mapNext (State.mapUnread g id) (execSave s) := by
  refine whenConfigured_mapUnread g r s ?_
  have happ : appendAll (s.mapUnread g r).ports (fieldList (s.mapUnread g r)) =
    appendAll s.ports (fieldList s) := rfl
  rw [happ]
  rcases appendAll s.ports (fieldList s) with _ | out <;> rfl

theorem execLoad_mapUnread :
    execLoad (s.mapUnread g r) = mapNext (State.mapUnread g id) (execLoad s) := by
  refine whenConfigured_mapUnread g r s ?_
  have hstage : stage (s.mapUnread g r).cfg (s.mapUnread g r).ports.inStream =
    stage s.cfg s.ports.inStream := rfl
  rw [hstage]
  rcases stage s.cfg s.ports.inStream with _ | ⟨b, rest⟩ <;> rfl

end

/-- Another response commutes with every operation, and another level of `SET_QUIRK` with all but `RESET` (R102). -/
theorem exec_mapUnread {i : Instr} {g : Bool → Bool} (hg : i = .reset → g = id) (r : Response → Response) (s : State) :
    exec i (s.mapUnread g r) = mapNext (State.mapUnread g id) (exec i s) := by
  rcases instr_kinds i with (hp | hp | rfl) | hp | rfl | rfl | rfl
  · rw [exec_reserved hp, exec_reserved hp]
    rfl
  · cases i <;> simp [Instr.port] at hp
    case qbank => exact whenConfigured_mapUnread g r s rfl
    case qlock => exact whenConfigured_mapUnread g r s rfl
  · exact execSave_mapUnread g r s
  · cases i <;> simp [Instr.port] at hp
    case read a => exact execRead_mapUnread g r s a
    case write a v => exact execWrite_mapUnread g r s a v
  · obtain rfl := hg rfl
    exact whenConfigured_mapUnread id r s rfl
  · exact whenConfigured_mapUnread g r s rfl
  · exact execLoad_mapUnread g r s

/-- What the operation before answered takes no part in an operation. -/
theorem exec_respond (i : Instr) (s : State) (o : Status) (d : Result) : exec i (s.respond o d) = exec i s := by
  have hcomm : exec i (s.respond o d) = mapNext (State.mapUnread id id) (exec i s) :=
    exec_mapUnread (fun _ => rfl) (fun _ => ⟨o, d⟩) s
  rw [hcomm]
  rcases exec i s <;> rfl

/-- Every operation but `RESET` keeps the sampled setting (R19, R102). -/
theorem exec_keeps_quirk {i : Instr} {s t : State} (hr : i ≠ .reset) (h : exec i s = .next t) :
    t.quirk = s.quirk := by
  rcases instr_kinds i with hp | hp | rfl | rfl | rfl
  · obtain ⟨⟨_, _, _, _, _, hquirk, _⟩, _⟩ := exec_sameBlock hp h
    exact hquirk
  · obtain ⟨_, _, _, hquirk, _⟩ := exec_bus_frame hp h
    exact hquirk
  · exact absurd rfl hr
  · rcases execUnlock_next h with ⟨_, rfl⟩ | ⟨_, rfl⟩ <;> rfl
  · rcases execLoad_next h with ⟨_, rfl⟩ | ⟨_, _, _, _, rfl⟩ | ⟨_, _, rfl⟩ <;> rfl

/-! Queries -/

/-- A query completes on every block and changes the response only (R99, R100). -/
theorem exec_introspection {i : Instr} (hp : Instr.port i = some .introspection) (s : State) :
    ∃ o d, exec i s = .next (s.respond o d) := by
  by_cases hc : s.configured = true
  · cases i <;> simp [Instr.port] at hp
    case qbank seg => exact ⟨_, _, whenConfigured_true hc _⟩
    case qlock => exact ⟨_, _, whenConfigured_true hc _⟩
  · exact ⟨_, _, exec_unconfigured (by simp [hp]) (by simpa using hc)⟩

/-- The next operation does the same whatever the ports held and whatever was answered before it was issued: issuing
sets the ports, and no operation reads the response (R5, R101). -/
theorem step_ports_respond {s : State} {q : Request} {rest : List Request} (hpend : s.pending = q :: rest) (p : Ports)
    (o : Status) (d : Result) : step (({ s with ports := p } : State).respond o d) = step s := by
  rw [step_issue hpend, step_issue (s := ({ s with ports := p } : State).respond o d) hpend]
  exact exec_respond (decode q.word) (s.issue q rest) o d

/-- Queries issued before an operation leave its step as it was (R101). -/
theorem run_introspection_prefix (s : State) {qs : List Request} (r : Request) (rest : List Request)
    (hq : ∀ q ∈ qs, Instr.port (decode q.word) = some .introspection) :
    Sys2Proof.core.run (qs.length + 1) { s with pending := qs ++ r :: rest } =
      step { s with pending := r :: rest } := by
  induction qs generalizing s with
  | nil => exact run_one _
  | cons q qs ih =>
    obtain ⟨hhead, htail⟩ := List.forall_mem_cons.mp hq
    obtain ⟨o, d, hex⟩ := exec_introspection hhead { s with pending := qs ++ r :: rest, ports := q.ports }
    have hstep : step { s with pending := q :: (qs ++ r :: rest) } = .next _ := (step_issue rfl).trans hex
    have hlast : step { s with pending := r :: rest, ports := q.ports, response := ⟨o, d⟩ } =
      step { s with pending := r :: rest } := step_ports_respond (s := { s with pending := r :: rest }) rfl q.ports o d
    exact (run_next hstep).trans ((ih { s with ports := q.ports, response := ⟨o, d⟩ } htail).trans hlast)

/-! The statements -/

/-- Settles O13: a query changes the response only, and by induction over the inserted queries the operation after them
finds the same block. -/
theorem introspectionCanBeInsertedAnywhere : Obligations.IntrospectionCanBeInsertedAnywhere := by
  refine ⟨fun i s hp => ?_, fun s qs r rest hq => run_introspection_prefix s r rest hq⟩
  obtain ⟨o, d, hex⟩ := exec_introspection hp s
  exact ⟨⟨o, d⟩, hex⟩

/-- Settles O20: the read triggers nothing, so its data phase runs in the block as it was. -/
theorem plainReadAnswersTheMappedByte : Obligations.PlainReadAnswersTheMappedByte := by
  intro s a off hi hc hd hplain
  exact execRead_plain hi hc hd (triggered_read_eq_none hplain)

/-- Settles O21: the read triggers, the switch is performed, and the data phase resolves with the new bank registers in
the same stores. -/
theorem triggeringReadSwitches : Obligations.TriggeringReadSwitches := by
  rintro s a off h b hi hc hd hat hread hsrc hl rfl hb
  have hsel := select_some 0 (triggered_read_of_hotAt (Inv.wf hi hc) hat hread hsrc)
  rw [switchBank_performed hl hb, setsLock_effPolicy] at hsel
  have hex := execRead_handled hi hc hd
  rw [byteAt_select, hsel] at hex
  exact hex

/-- Settles O50: construction and `RESET` sample the input, every other operation keeps the setting and commutes with
another input. -/
theorem settingIsSampledOnlyAtReset : Obligations.SettingIsSampledOnlyAtReset := by
  refine ⟨fun c q d hw => ?_, fun i s t h => ?_, fun i s t q hr h => ?_⟩
  · obtain ⟨s, _, he⟩ := construct_of_wf hw q d
    rw [he]
    rfl
  · by_cases hr : i = .reset
    · subst hr
      rcases execReset_next h with ⟨hc, rfl⟩ | ⟨hc, rfl⟩ <;> simp [hc]
    · simpa [hr] using exec_keeps_quirk hr h
  · have hcomm := exec_mapUnread (g := fun _ => q) (fun he => absurd he hr) id s
    rw [h] at hcomm
    exact hcomm

/-- Settles O12: by whether the block is configured. -/
theorem qlockAnswersTheLock : Obligations.QlockAnswersTheLock :=
  ⟨by decide, fun _ hc => whenConfigured_false hc _, fun _ hc => whenConfigured_true hc _⟩

end Sys2Proof.Machine

/-! SUPPORT. The field list of a block that meets the invariant, `SAVE` to a stream that refuses no field and `LOAD` of
a field list, and the proofs of the statements about persistence (44_persistence.md). -/

namespace Sys2Proof.Machine

/-! The field list -/

/-- Reading all entries by position maps the whole list. -/
theorem map_getD_range {α β : Type} (f : α → β) (d : α) {l : List α} {n : Nat} (hlen : l.length = n) :
    ((List.range n).map fun k => f (l.getD k d)) = l.map f := by
  subst hlen
  exact List.ext_getElem (by simp) fun k _ hk => by
    simp only [List.getElem_map, List.getElem_range, List.getD_eq_getElem l d (List.length_map f ▸ hk)]

/-- The field list over the registers themselves: where it holds write-protect flags, the scheme has them (R18,
R105). -/
theorem fieldList_eq (s : State) :
    fieldList s =
      (List.range s.cfg.nseg).map (fun seg => Field.int (s.currentBank.getD seg 0)) ++
        (if s.cfg.hasWp then (List.range s.cfg.nseg).map (fun seg => Field.bool (s.wp.getD seg false)) else []) ++
        [Field.bool s.locked] := by
  cases hwp : s.cfg.hasWp <;> simp [fieldList, State.bankAt, State.wpAt, hwp]

theorem fieldList_length (s : State) :
    (fieldList s).length = if s.cfg.hasWp then 2 * s.cfg.nseg + 1 else s.cfg.nseg + 1 := by
  cases hwp : s.cfg.hasWp
  · simp [fieldList, hwp]
  · simp [fieldList, hwp, Nat.two_mul, Nat.add_assoc]

section
variable {s : State} (hi : s.Inv) (hc : s.configured = true)
include hi hc

theorem Inv.wp_eq_nil (hwp : s.cfg.hasWp = false) : s.wp = [] :=
  List.length_eq_zero_iff.mp (by simpa [hwp] using Inv.wp_length hi hc)

/-- The field list names every register of `BankState` once, in order (R105). -/
theorem fieldList_eq_registers :
    fieldList s = s.currentBank.map Field.int ++ (s.wp.map Field.bool ++ [Field.bool s.locked]) := by
  rw [fieldList_eq, map_getD_range _ _ (Inv.banks_length hi hc), List.append_assoc]
  cases hwp : s.cfg.hasWp
  · simp [Inv.wp_eq_nil hi hc hwp]
  · rw [if_pos rfl, map_getD_range _ _ (by simpa [hwp] using Inv.wp_length hi hc)]

/-- `LOAD` stages from a field list the `BankState` it was made of, whatever follows it (R109, R112). -/
theorem stage_fieldList (rest : List Field) :
    stage s.cfg (fieldList s ++ rest) = some (⟨s.currentBank, s.wp, s.locked⟩, rest) :=
  (stage_eq_some_iff _ _ _ _).mpr
    ⟨Inv.banks_length hi hc, Inv.wp_length hi hc, by simp [fieldList_eq_registers hi hc]⟩

/-- The bank registers are in range, so the reduction leaves them alone (R15, R111). -/
theorem reduceBanks_currentBank : reduceBanks s.cfg s.currentBank = s.currentBank := by
  refine List.ext_getElem (by simp [reduceBanks]) fun seg _ hseg => ?_
  have hlt := Inv.bank_lt hi hc (Inv.banks_length hi hc ▸ hseg)
  rw [State.bankAt, List.getD_eq_getElem _ _ hseg] at hlt
  simp [reduceBanks, Nat.mod_eq_of_lt hlt]

/-- Committing one block's `BankState` in a block of the same configuration copies it (R114). -/
theorem commit_registers {u : State} (hui : u.Inv) (huc : u.configured = true) (hcfg : u.cfg = s.cfg) :
    (u.commit ⟨s.currentBank, s.wp, s.locked⟩).currentBank = s.currentBank ∧
    (u.commit ⟨s.currentBank, s.wp, s.locked⟩).wp = s.wp ∧
    (u.commit ⟨s.currentBank, s.wp, s.locked⟩).locked = s.locked := by
  refine ⟨by simpa [hcfg] using reduceBanks_currentBank hi hc, ?_, rfl⟩
  cases hwp : s.cfg.hasWp
  · simp [Inv.wp_eq_nil hi hc hwp, Inv.wp_eq_nil hui huc (hcfg ▸ hwp)]
  · simp [hcfg, hwp]

end

/-! The two operations on a configured block -/

section
variable {s : State} (hc : s.configured = true)
include hc

/-- `SAVE` to a stream that refuses none of the fields (R107). -/
theorem execSave_appends
    (hok : ∀ k, s.ports.outRefuses = some k →
      (if s.cfg.hasWp then 2 * s.cfg.nseg + 1 else s.cfg.nseg + 1) ≤ k) :
    execSave s = .next ((s.setOutStream (s.ports.outStream ++ fieldList s)).succeed .nothing) := by
  rw [execSave, whenConfigured_true hc]
  rcases appendAll_cases s.ports (fieldList s) with ⟨_, happ⟩ | ⟨k, hk, hlt, _⟩
  · rw [happ]
  · exact absurd (hok k hk) (Nat.not_le_of_gt (fieldList_length s ▸ hlt))

/-- `LOAD` of a stream that stages (R109). -/
theorem execLoad_staged {b : BankState} {rest : List Field} (hs : stage s.cfg s.ports.inStream = some (b, rest)) :
    execLoad s = .next (((s.commit b).setInStream rest).succeed .nothing) := by
  rw [execLoad, whenConfigured_true hc, hs]

end

/-! The statements -/

/-- Settles O36: the stream takes the whole field list, and of the block only the output stream and the response
change. -/
theorem saveAppendsTheFieldList : Obligations.SaveAppendsTheFieldList := by
  intro s hc hok
  rw [← fieldList_eq]
  exact execSave_appends hc hok

/-- Settles O38: the stream stages, and the commit replaces `BankState` register by register. -/
theorem loadReplacesTheBankState : Obligations.LoadReplacesTheBankState := by
  intro s banks wp l rest hc hbanks hwp hin
  have hstage : stage s.cfg s.ports.inStream = some (⟨banks, wp, l⟩, rest) :=
    (stage_eq_some_iff _ _ _ _).mpr ⟨hbanks, hwp, hin⟩
  refine ⟨_, execLoad_staged hc hstage, rfl, by simpa [reduceBanks] using hbanks, fun seg hseg => ?_, rfl, rfl, rfl,
    rfl, rfl, rfl, rfl, rfl, rfl, rfl⟩
  have hlt : seg < banks.length := hbanks ▸ hseg
  rw [List.getD_eq_getElem _ _ hlt]
  exact bankAt_commit s ⟨banks, wp, l⟩ hlt

/-- Settles O40: `LOAD` stages from the written fields the registers of the first block, which are in range, so that the
commit copies them. -/
theorem saveLoadRoundTrip : Obligations.SaveLoadRoundTrip := by
  intro s u hsi hui hsc huc hcfg hok
  refine ⟨_, fieldList s, execSave_appends hsc hok, rfl, fun rest => ?_⟩
  have hstage : stage u.cfg (fieldList s ++ rest) = some (⟨s.currentBank, s.wp, s.locked⟩, rest) :=
    hcfg ▸ stage_fieldList hsi hsc rest
  exact ⟨_, execLoad_staged (s := { u with ports := { u.ports with inStream := fieldList s ++ rest } }) huc hstage,
    commit_registers hsi hsc hui huc hcfg⟩

end Sys2Proof.Machine

/-! SUPPORT. Construction with an image that is too small, what a block that failed construction answers, the failing
ends of `SAVE` and `LOAD`, that every operation completes, and the proofs of the statements about the outcomes
(60_exceptions.md). -/

namespace Sys2Proof.Machine

/-! A block that failed construction -/

/-- An image that does not hold the declared banks breaks well-formedness (R8 (3)). -/
theorem wf_eq_false_of_short_image {c : Cfg} (hshort : c.imageSize < c.bankCount * c.bankSize) : c.wf = false :=
  Bool.eq_false_iff.mpr fun hw => Nat.not_le_of_gt hshort (Cfg.wf_banks hw).2

/-- Construction with a configuration that is not well-formed fails (R22, R90). -/
theorem construct_of_not_wf {c : Cfg} (hw : c.wf = false) (q : Bool) (d : Nat) :
    (State.construct c q d).configured = false ∧ (State.construct c q d).response = ⟨.configError, .nothing⟩ := by
  simp [State.construct, hw]

/-- The block is unconfigured, and its last answer was an error (R129). -/
def Failed (s : State) : Prop :=
  s.configured = false ∧ (s.response.status = .configError ∨ s.response.status = .refused)

/-- Every operation leaves an unconfigured block failed: a reserved word is refused, any other operation finds the
block unconfigured (R22, R52, R127). -/
theorem exec_failed {i : Instr} {s t : State} (hc : s.configured = false) (h : exec i s = .next t) : Failed t := by
  by_cases hp : Instr.port i = none
  · cases (exec_reserved hp s).symm.trans h
    exact ⟨hc, .inr rfl⟩
  · cases (exec_unconfigured hp hc).symm.trans h
    exact ⟨hc, .inl rfl⟩

theorem step_failed {s t : State} (hs : Failed s) (h : step s = .next t) : Failed t := by
  rcases step_next h with ⟨_, rfl⟩ | ⟨r, rest, _, hex⟩
  · exact hs
  · exact exec_failed (s := s.issue r rest) hs.1 hex

/-! The failing ends of `SAVE` and `LOAD` on a configured block -/

/-- A stream that does not begin with the field list does not stage (R109, R121). -/
theorem stage_eq_none {c : Cfg} {fs : List Field}
    (hno : ¬ ∃ (banks : List Nat) (wp : List Bool) (l : Bool) (rest : List Field),
      banks.length = c.nseg ∧ wp.length = (if c.hasWp then c.nseg else 0) ∧
      fs = banks.map Field.int ++ (wp.map Field.bool ++ (Field.bool l :: rest))) : stage c fs = none := by
  refine Option.eq_none_iff_forall_ne_some.mpr fun ⟨b, rest⟩ hs => ?_
  exact hno ⟨b.banks, b.wp, b.locked, rest, (stage_eq_some_iff c fs b rest).mp hs⟩

section
variable {s : State} (hc : s.configured = true)
include hc

/-- `SAVE` to a stream that refuses one of the fields (R107, R108). -/
theorem execSave_refused {k : Nat} (hk : s.ports.outRefuses = some k) (hlt : k < (fieldList s).length) :
    execSave s = .next (((s.setOutStream (Config.failedSaveStream s.draws)).nextDraw).raise .saveFailure) := by
  rw [execSave, whenConfigured_true hc]
  rcases appendAll_cases s.ports (fieldList s) with ⟨hok, _⟩ | ⟨_, _, _, happ⟩
  · exact absurd (hok k hk) (Nat.not_le_of_gt hlt)
  · rw [happ]

/-- `LOAD` of a stream that does not stage (R110). -/
theorem execLoad_unstaged (hs : stage s.cfg s.ports.inStream = none) :
    execLoad s = .next (((s.setInStream (s.ports.inStream.drop (Config.failedLoadConsumed s.draws))).nextDraw).raise
      .loadFailure) := by
  rw [execLoad, whenConfigured_true hc, hs]

/-! Every operation completes -/

theorem execSave_completes : ∃ t, execSave s = .next t := by
  rcases appendAll_cases s.ports (fieldList s) with ⟨hok, _⟩ | ⟨k, hk, hlt, _⟩
  · exact ⟨_, execSave_appends hc fun k hk => fieldList_length s ▸ hok k hk⟩
  · exact ⟨_, execSave_refused hc hk hlt⟩

theorem execLoad_completes : ∃ t, execLoad s = .next t := by
  rcases hs : stage s.cfg s.ports.inStream with _ | ⟨b, rest⟩
  · exact ⟨_, execLoad_unstaged hc hs⟩
  · exact ⟨_, execLoad_staged hc hs⟩

/-- A bus operation ends without an access, or its data phase stays inside the store (R36). -/
theorem exec_bus_completes (hi : s.Inv) {i : Instr} (hp : Instr.port i = some .bus) : ∃ t, exec i s = .next t := by
  cases i <;> simp [Instr.port] at hp
  case read a =>
    rcases hd : decodeAddr s.cfg a with _ | off
    · exact ⟨_, execRead_notHandled hc hd⟩
    · exact ⟨_, execRead_handled hi hc hd⟩
  case write a v =>
    rcases hd : decodeAddr s.cfg a with _ | off
    · exact ⟨_, execWrite_notHandled hc v hd⟩
    · obtain ⟨t, hex, _⟩ := exec_write_handled hi hc v hd
      exact ⟨t, hex⟩

end

/-- Every operation answers a next state in every state that meets the invariant (R125, R129). -/
theorem exec_completes {s : State} (hi : s.Inv) (i : Instr) : ∃ t, exec i s = .next t := by
  by_cases hres : Instr.port i = none
  · exact ⟨_, exec_reserved hres s⟩
  by_cases hc : s.configured = true
  · rcases instr_kinds i with (hp | hp | rfl) | hp | rfl | rfl | rfl
    · exact absurd hp hres
    · obtain ⟨_, _, hex⟩ := exec_introspection hp s
      exact ⟨_, hex⟩
    · exact execSave_completes hc
    · exact exec_bus_completes hc hi hp
    · exact ⟨_, whenConfigured_true hc _⟩
    · exact ⟨_, whenConfigured_true hc _⟩
    · exact execLoad_completes hc
  · exact ⟨_, exec_unconfigured hres (by simpa using hc)⟩

theorem step_completes {s : State} (hi : s.Inv) : ∃ t, step s = .next t := by
  rcases hp : s.pending with _ | ⟨r, rest⟩
  · exact ⟨s, step_idle hp⟩
  · rw [step_issue hp]
    exact exec_completes (issue_inv hi r rest) _

/-! The statements -/

/-- Settles O43: by induction over the steps; a step completes where the invariant holds, and keeps it. -/
theorem blockNeverStops : Obligations.BlockNeverStops := by
  intro n
  induction n with
  | zero => exact fun s _ => ⟨s, rfl⟩
  | succ n ih =>
    intro s hi
    obtain ⟨u, hstep⟩ := step_completes hi
    rw [run_next hstep]
    exact ih u (stepKeepsTheInvariant s u hi hstep)

/-- Settles O8: construction fails, and every step leaves a failed block failed. -/
theorem shortImageIsFatal : Obligations.ShortImageIsFatal := by
  intro c q d hshort
  obtain ⟨hconf, hresp⟩ := construct_of_not_wf (wf_eq_false_of_short_image hshort) q d
  have hstatus : (State.construct c q d).response.status = .configError := congrArg Response.status hresp
  refine ⟨hstatus, fun n ps t h => ?_⟩
  have hfailed : Failed { State.construct c q d with pending := ps } := ⟨hconf, .inl hstatus⟩
  exact run_keeps (fun _ _ => step_failed) n _ t hfailed h

/-- Settles O37: the refused position lies in the field list, and `SAVE` then touches the output stream, the draw and
the response only. -/
theorem saveFailureLeavesTheBlock : Obligations.SaveFailureLeavesTheBlock := by
  intro s k hc hk hlt
  rw [← fieldList_length] at hlt
  exact ⟨_, execSave_refused hc hk hlt, rfl, ⟨rfl, rfl, rfl, rfl, rfl, rfl, rfl, rfl⟩, rfl, rfl⟩

/-- Settles O39: the stream does not stage, and `LOAD` then touches the input stream, the draw and the response
only. -/
theorem loadFailureLeavesTheBlock : Obligations.LoadFailureLeavesTheBlock := by
  intro s hc hno
  exact ⟨_, execLoad_unstaged hc (stage_eq_none hno), rfl, ⟨rfl, rfl, rfl, rfl, rfl, rfl, rfl, rfl⟩, rfl, rfl⟩

end Sys2Proof.Machine

/-! SUPPORT. The write-protect flags that construction and `RESET` load, that a second `RESET` finds nothing to do, and
the proof of the statement about `RESET` (43_cartridge_scheme.md, 70_reset_and_hazards.md). -/

namespace Sys2Proof.Machine

/-- Where the scheme has write-protect flags, each is reloaded from `WP_RESET` (R18, R29). -/
theorem wpAtReset_getD {c : Cfg} (hwp : c.hasWp = true) {seg : Nat} (hseg : seg < c.nseg) :
    (wpAtReset c).getD seg false = c.wpReset.getD seg false := by
  simp [wpAtReset, hwp, List.getD_eq_getElem?_getD, hseg]

/-- `RESET` of a configured block completes (R97). -/
theorem execReset_configured {s : State} (hc : s.configured = true) :
    execReset s = .next ((s.applyReset s.ports.setQuirk).succeed .nothing) :=
  whenConfigured_true hc _

/-- The reset values depend on the configuration and the sampled input only, and `RESET` keeps the configuration, so
that applying them again changes nothing (R97). -/
theorem applyReset_succeed_idempotent (s : State) (b : Bool) (d : Result) :
    (((s.applyReset b).succeed d).applyReset b).succeed d = (s.applyReset b).succeed d := rfl

/-- A second `RESET` with the same input changes nothing (R97). -/
theorem execReset_idempotent {s t : State} (hc : s.configured = true) (h : execReset s = .next t) :
    execReset t = .next t := by
  cases (execReset_configured hc).symm.trans h
  rw [execReset_configured (by simpa using hc), State.succeed_ports, State.applyReset_ports,
    applyReset_succeed_idempotent]

/-- Settles O9: `RESET` ends in the reset values, where a second one finds the configuration and the input it needs
unchanged. -/
theorem resetRestoresThePowerOnState : Obligations.ResetRestoresThePowerOnState := by
  refine ⟨by decide, fun _ hc => whenConfigured_false hc _, fun s hc => ?_⟩
  have hex := execReset_configured hc
  exact ⟨_, hex, rfl, List.length_replicate, fun seg _ => bankAt_applyReset s s.ports.setQuirk seg, rfl,
    fun hwp _ hseg => wpAtReset_getD hwp hseg, rfl, rfl, rfl, rfl, rfl, rfl, rfl, rfl, execReset_idempotent hc hex⟩

end Sys2Proof.Machine

/-! SUPPORT. What the decoder reads off a word, field by field, the words it makes one operation, and the proofs of the
statements about the transaction word (30_encoding.md). -/

namespace Sys2Proof.Machine

open Sys2Proof.Laws

/-! Decoding after encoding -/

/-- The canonical word of an operation is one of its words (R49 to R51). -/
theorem decode_encode (i : Instr) : decode (encode i) = i := by
  cases i with
  | read addr => exact RoundTrip.read addr
  | write addr data => exact RoundTrip.write addr data
  | reset => exact RoundTrip.reset
  | unlock => exact RoundTrip.unlock
  | save => exact RoundTrip.save
  | load => exact RoundTrip.load
  | qbank seg => exact RoundTrip.qbank seg
  | qlock => exact RoundTrip.qlock
  | reserved8 => exact RoundTrip.reserved8
  | reserved9 => exact RoundTrip.reserved9
  | reservedA => exact RoundTrip.reservedA
  | reservedB => exact RoundTrip.reservedB
  | reservedC => exact RoundTrip.reservedC
  | reservedD => exact RoundTrip.reservedD
  | reservedE => exact RoundTrip.reservedE
  | reservedF => exact RoundTrip.reservedF

/-- The canonical word tells operations apart (R49). -/
theorem encode_injective : Function.Injective encode :=
  Function.LeftInverse.injective decode_encode

/-! The fields of the decoded operation -/

/-- The operation a word spells has the code of the word (R50, R52): the last line of the decoder is code 0xF alone, as
the code has four bits. -/
theorem op_decode (w : TWord) : (decode w).op = opField w := by
  refine BitVec.eq_of_toNat_eq ?_
  unfold decode
  split
  case h_16 =>
    have hlt := (opField w).isLt
    simp only [imp_false] at *
    show 15 = (opField w).toNat
    omega
  all_goals simp [Instr.op, *]

/-- `READ`, `WRITE` and `QBANK` take their operand from field `addr`, and no other operation does (R50). -/
theorem addrOperand_decode (w : TWord) :
    (decode w).addrOperand = if opField w = 0x0 ∨ opField w = 0x1 ∨ opField w = 0x6 then addrField w else 0 := by
  rw [← op_decode]
  unfold decode
  split <;> rfl

/-- `WRITE` takes its byte from field `data`, and no other operation does (R50). -/
theorem dataOperand_decode (w : TWord) :
    (decode w).dataOperand = if opField w = 0x1 then dataField w else 0 := by
  rw [← op_decode]
  unfold decode
  split <;> rfl

/-- The canonical word of the operation a word spells: the code, and the fields the operation uses (R49). -/
theorem encode_decode (w : TWord) :
    encode (decode w) = packWord (opField w)
      (if opField w = 0x0 ∨ opField w = 0x1 ∨ opField w = 0x6 then addrField w else 0)
      (if opField w = 0x1 then dataField w else 0) := by
  rw [encode, op_decode, addrOperand_decode, dataOperand_decode]

/-! Masking a word -/

/-- A packed word is masked field by field (R48). -/
theorem packWord_and (op op' : BitVec 4) (a a' : BitVec 16) (d d' : Byte) :
    packWord op a d &&& packWord op' a' d' = packWord (op &&& op') (a &&& a') (d &&& d') := by
  show (op ++ a ++ d) &&& (op' ++ a' ++ d') = _
  rw [BitVec.and_append, BitVec.and_append]
  rfl

section
variable (w : TWord)

theorem and_mask_all : w &&& 0xFFFFFFF = packWord (opField w) (addrField w) (dataField w) := by
  rw [packWord_fields]
  exact BitVec.and_allOnes

theorem and_mask_op_addr : w &&& 0xFFFFF00 = packWord (opField w) (addrField w) 0 := by
  have hmask : (0xFFFFF00 : TWord) = packWord (BitVec.allOnes 4) (BitVec.allOnes 16) 0 := by decide
  conv_lhs => rw [← packWord_fields w, hmask, packWord_and]
  rw [BitVec.and_allOnes, BitVec.and_allOnes, BitVec.ofNat_eq_ofNat, BitVec.and_zero]

theorem and_mask_op : w &&& 0xF000000 = packWord (opField w) 0 0 := by
  have hmask : (0xF000000 : TWord) = packWord (BitVec.allOnes 4) 0 0 := by decide
  conv_lhs => rw [← packWord_fields w, hmask, packWord_and]
  rw [BitVec.and_allOnes, BitVec.ofNat_eq_ofNat, BitVec.and_zero, BitVec.ofNat_eq_ofNat, BitVec.and_zero]

end

/-! Reserved codes -/

/-- The codes from 8 up are those of the reserved operations (R52). -/
theorem port_eq_none_of_le_op {i : Instr} (h : 8 ≤ i.op.toNat) : Instr.port i = none := by
  cases i <;> simp [Instr.op] at h <;> rfl

/-- The operations of no port are the eight reserved ones (R52, R130). -/
theorem port_eq_none_iff (i : Instr) :
    Instr.port i = none ↔
      i ∈ [Instr.reserved8, .reserved9, .reservedA, .reservedB, .reservedC, .reservedD, .reservedE, .reservedF] := by
  cases i <;> simp [Instr.port]

/-! The statements -/

/-- Settles O2: by the constructor of the operation. -/
theorem decodeEncodeRoundTrip : Obligations.DecodeEncodeRoundTrip :=
  fun i _ => decode_encode i

/-- Settles O3: words that agree in the used fields decode to operations with one canonical word, so to one operation;
the canonical word itself is the word masked. -/
theorem ignoredFieldsSelectNothing : Obligations.IgnoredFieldsSelectNothing := by
  refine ⟨fun w w' hop haddr hdata => encode_injective ?_, fun w => ?_⟩
  · rw [encode_decode, encode_decode, ← hop]
    congr 1
    · split
      next hused => exact haddr (by tauto)
      next => rfl
    · split
      next hused => exact hdata hused
      next => rfl
  · rw [encode_decode]
    by_cases hwrite : opField w = 0x1
    · rw [if_pos (.inr (.inl hwrite)), if_pos hwrite, if_pos hwrite, and_mask_all]
    · rw [if_neg hwrite, if_neg hwrite]
      by_cases haddr : opField w = 0x0 ∨ opField w = 0x6
      · rw [if_pos haddr, if_pos (by tauto), and_mask_op_addr]
      · rw [if_neg haddr, if_neg (by tauto), and_mask_op]

/-- Settles O1: by evaluating the decoder on each word. -/
theorem specWordsDecode : Obligations.SpecWordsDecode := by
  unfold Obligations.SpecWordsDecode
  decide

/-- Settles O5: the decoded operation has the code of the word, and one with a code from 8 up ends with `REFUSED` in
every state. -/
theorem reservedWordsAreRefused : Obligations.ReservedWordsAreRefused := by
  refine ⟨fun w hop => ?_, fun i hi s => exec_reserved ((port_eq_none_iff i).mpr hi) s⟩
  rw [← op_decode] at hop
  exact (port_eq_none_iff (decode w)).mp (port_eq_none_of_le_op hop)

/-- Settles O4: issuing the first pending request is the whole of what a step adds to the operation. -/
theorem stepExecutesTheNextOperation : Obligations.StepExecutesTheNextOperation :=
  ⟨fun _ _ _ => step_issue, fun _ => step_idle⟩

end Sys2Proof.Machine

/-! SUPPORT. What a switch leaves mapped, the window and the hot range of the reference configurations, and the proofs of
the statements about them (20_memory.md, 30_encoding.md). -/

namespace Sys2Proof.Machine

/-! What a switch leaves mapped -/

/-- After a switch of an unlocked block the bank is mapped, whether it was before or not (R71, R72). -/
theorem bankAt_switchBank {s : State} (hl : s.locked = false) {seg : Nat} (hseg : seg < s.currentBank.length)
    (b : Nat) : (switchBank s seg b).bankAt seg = b := by
  by_cases hb : b = s.bankAt seg
  · rw [switchBank, if_pos hb, ite_self, hb]
  · rw [switchBank_performed hl hb, bankAt_setLocked, bankAt_setBank, if_pos ⟨rfl, hseg⟩]

/-- A write into a hot range leaves the target bank mapped in an unlocked block: the data phase touches no bank register
(R71, R91, R94). -/
theorem exec_write_maps {s : State} (hi : s.Inv) (hc : s.configured = true) (hl : s.locked = false) {a : BusAddr}
    {off : Nat} (hd : decodeAddr s.cfg a = some off) {h : HotRange} (hat : HotAt s.cfg h off) (v : Byte) :
    ∃ t, exec (.write a v) s = .next t ∧ t.bankAt h.seg = target s.cfg h off v := by
  obtain ⟨_, _, hseg⟩ := Cfg.wf_hot (Inv.wf hi hc) hat.1
  have ht : triggered s.cfg off true = some h := by
    rw [triggered_write_eq, hotLookup_of_hotAt (Inv.wf hi hc) hat]
  obtain ⟨t, hex, _, hbank, _⟩ := exec_write_handled hi hc v hd
  rw [select_some v ht] at hbank
  have hmap := bankAt_switchBank hl (Inv.banks_length hi hc ▸ hseg) (target s.cfg h off v)
  exact ⟨t, hex, (congrArg (·.getD h.seg 0) hbank).trans hmap⟩

/-- The bank registers of a block of one segment. -/
theorem currentBank_of_one_segment {s : State} (hlen : s.currentBank.length = 1) : s.currentBank = [s.bankAt 0] := by
  obtain ⟨b, hb⟩ := List.length_eq_one_iff.mp hlen
  rw [State.bankAt, hb]
  rfl

/-! The window of the reference configurations -/

/-- The mirror mask keeps the low 13 bits (G1). -/
theorem toNat_and_mirrorMask (a : BusAddr) : (a &&& 0x1FFF).toNat = a.toNat % 8192 :=
  Nat.and_two_pow_sub_one_eq_mod a.toNat 13

theorem toNat_and_low12 (a : BusAddr) : (a &&& 0xFFF).toNat = a.toNat % 4096 :=
  Nat.and_two_pow_sub_one_eq_mod a.toNat 12

theorem getLsbD_twelve (a : BusAddr) : a.getLsbD 12 = decide (a.toNat / 4096 % 2 = 1) := by
  rw [← BitVec.testBit_toNat, Nat.testBit_eq_decide_div_mod_eq]

section
variable {n : Nat} {hotOnRead : Bool} {image : Memory} {id : String}

/-- The window is every address with bit 12 set, and the offset its low 12 bits (R32, R66). -/
theorem decodeAddr_tvboyRef (a : BusAddr) :
    decodeAddr (tvboyRef n hotOnRead image id) a = if a.getLsbD 12 then some (a &&& 0xFFF).toNat else none := by
  have hfold : (a &&& (tvboyRef n hotOnRead image id).mirrorMask).toNat = a.toNat % 8192 := toNat_and_mirrorMask a
  have hbase : (tvboyRef n hotOnRead image id).windowBase.toNat = 4096 := rfl
  have hsize : (tvboyRef n hotOnRead image id).windowSize = 4096 := rfl
  by_cases hbit : a.toNat / 4096 % 2 = 1
  · rw [getLsbD_twelve, if_pos (decide_eq_true hbit), toNat_and_low12, decodeAddr_eq_some_iff, hfold, hbase, hsize]
    omega
  · rw [getLsbD_twelve, if_neg (by simpa using hbit), decodeAddr_eq_none_iff, hfold, hbase, hsize]
    omega

theorem nseg_tvboyRef : (tvboyRef n hotOnRead image id).nseg = 1 := by
  simp [Cfg.nseg, tvboyRef]

/-! `SEL` in the reference configurations -/

/-- The one hot range of the reference configurations (G3). -/
def tvboyHot : HotRange := ⟨0x800, 0x87F, 0, .offsetMod⟩

theorem hotAt_tvboyRef {b : Nat} (hb : b < 128) : HotAt (tvboyRef n hotOnRead image id) tvboyHot (0x800 + b) := by
  refine ⟨List.mem_singleton_self _, Nat.le_add_right _ _, ?_⟩
  show 0x800 + b ≤ 0x87F
  omega

section
variable {b : Nat} (hn : n = 8 ∨ n = 128) (hb : b < n)
include hn hb

/-- Both bank counts divide the start of the hot range, so the offset of bank `b` is its `b`-th (R56, R60). -/
theorem target_tvboyRef (v : Byte) : target (tvboyRef n hotOnRead image id) tvboyHot (0x800 + b) v = b := by
  show (0x800 + b) % n = b
  rcases hn with rfl | rfl <;> omega

/-- The first offset of the hot range that selects bank `b` (R60). -/
theorem find_offset_of_bank :
    (List.range' 0x800 128).find? (fun o => decide (o % n = b)) = some (0x800 + b) := by
  rw [List.find?_range'_eq_some]
  refine ⟨?_, ?_, fun o hlo hlt => ?_⟩
  · rcases hn with rfl | rfl <;> simp <;> omega
  · rcases hn with rfl | rfl <;> simp [List.mem_range'_1] <;> omega
  · rcases hn with rfl | rfl <;> simp <;> omega

/-- The expansion of `SEL` (R60). -/
theorem selInstr_tvboyRef :
    selInstr (tvboyRef n hotOnRead image id) b = some (.write (BitVec.ofNat 16 (0x1800 + b)) 0) := by
  have hfind := congrArg (Option.map fun o => Instr.write (BitVec.ofNat 16 (0x1000 + o)) 0) (find_offset_of_bank hn hb)
  refine Eq.trans hfind ?_
  rw [Option.map_some, ← Nat.add_assoc]

/-- Where the write of `SEL` lands (R61). -/
theorem decodeAddr_sel :
    decodeAddr (tvboyRef n hotOnRead image id) (BitVec.ofNat 16 (0x1800 + b)) = some (0x800 + b) := by
  have haddr : (BitVec.ofNat 16 (0x1800 + b)).toNat = 0x1800 + b := Nat.mod_eq_of_lt (by omega)
  have hbit : (BitVec.ofNat 16 (0x1800 + b)).getLsbD 12 = true := by
    rw [getLsbD_twelve, haddr]
    exact decide_eq_true (by omega)
  rw [decodeAddr_tvboyRef, if_pos hbit, toNat_and_low12, haddr, Option.some.injEq]
  omega

end

end

/-! The statements -/

/-- Settles O17: by bit 12, with the mask, the base and the size as numbers. -/
theorem referenceWindowIsBitTwelve : Obligations.ReferenceWindowIsBitTwelve :=
  fun _ _ _ _ a => decodeAddr_tvboyRef a

/-- Settles O51: the write lands in the hot range, where its target is the bank itself, so it leaves that bank mapped in
the one segment. -/
theorem selMapsTheBank : Obligations.SelMapsTheBank := by
  intro s n b hotOnRead image id hn hcfg hi hc hl hb
  have hd : decodeAddr s.cfg (BitVec.ofNat 16 (0x1800 + b)) = some (0x800 + b) := hcfg ▸ decodeAddr_sel hn hb
  have hat : HotAt s.cfg tvboyHot (0x800 + b) := hcfg ▸ hotAt_tvboyRef (by omega)
  have htarget : target s.cfg tvboyHot (0x800 + b) 0 = b := hcfg ▸ target_tvboyRef hn hb 0
  obtain ⟨t, hex, hmap⟩ := exec_write_maps hi hc hl hd hat 0
  rw [htarget] at hmap
  obtain ⟨htcfg, htconf, _⟩ := exec_constants hex
  have hlen : t.currentBank.length = 1 := by
    rw [Inv.banks_length (exec_inv hi hex) (htconf.trans hc), htcfg, hcfg, nseg_tvboyRef]
  refine ⟨hcfg ▸ selInstr_tvboyRef hn hb, t, hex, ?_⟩
  rw [currentBank_of_one_segment hlen]
  exact congrArg (fun k => [k]) hmap

end Sys2Proof.Machine

/-! SUPPORT. The stages that every write in the window goes through, and the proofs of the statements about locked
blocks and about writes into RAM (41_bank_selector.md, 42_banked_memory.md). -/

namespace Sys2Proof.Machine

/-- A write in the window stores after the selector and answers the byte then there (R91, R94, R95). -/
theorem execWrite_handled {s : State} (hi : s.Inv) (hc : s.configured = true) {a : BusAddr} {off : Nat} (v : Byte)
    (hd : decodeAddr s.cfg a = some off) :
    ∃ u b, store8 (select s off true v) off v = some u ∧ load8 u off = some b ∧
      execWrite a v s = .next (u.succeed (.byte b)) := by
  obtain ⟨t, hex⟩ : ∃ t, execWrite a v s = .next t := exec_bus_completes hc hi (i := .write a v) rfl
  rcases execWrite_next hex with ⟨hc', _⟩ | ⟨_, hd', _⟩ | ⟨_, off', u, b, hd', hst, hld, rfl⟩
  · simp [hc] at hc'
  · simp [hd] at hd'
  · obtain rfl : off = off' := Option.some.inj (hd.symm.trans hd')
    exact ⟨u, b, hst, hld, hex⟩

/-! The statements -/

/-- Settles O23: the selector leaves a locked block alone, so the data phase runs in the block as it was, and a store
touches neither bank registers nor lock. -/
theorem lockBlocksEverySwitch : Obligations.LockBlocksEverySwitch := by
  intro s a v off hi hc hd hl
  refine ⟨?_, ?_⟩
  · have hread := execRead_handled hi hc hd
    rw [select_locked hl] at hread
    exact hread
  · obtain ⟨u, b, hst, hld, hex⟩ := execWrite_handled hi hc v hd
    rw [select_locked hl] at hst
    obtain ⟨hbank, hlock, _⟩ := store8_frame hst
    exact ⟨u, b, hst, hld, hex, hbank, hlock.trans hl⟩

/-- Settles O26: a protected segment has no store index, whatever the selector did; the rest is the frame of the
bus. -/
theorem writeToProtectedRamStoresNothing : Obligations.WriteToProtectedRamStoresNothing := by
  intro s a v off hi hc hd hk hhas hset
  have hkind : kindAt s.cfg off = .ram := hk
  have hwp : s.wpAt (segOf s.cfg off) = true := Bool.and_eq_true_iff.mpr ⟨hhas, hset⟩
  have hidx : storeIndex (select s off true v) off = none :=
    (storeIndex_eq_none_iff _ off).mpr (.inr (by rwa [select_cfg, select_wpAt]))
  obtain ⟨t, hex, hresp, hram, hbytes, hbank, hlock⟩ := exec_write_rejected hi hc v hd hidx
  obtain ⟨hcfg, hconf, hwp', hquirk, hdraw, hpend, hports, hdraws⟩ := exec_bus_frame rfl hex
  rw [hkind] at hresp
  exact ⟨t, hex, hresp, fun i => by rw [hcfg], hbytes, hcfg, hram, hbank, hlock, hconf, hwp', hquirk, hdraw, hpend,
    hports, hdraws⟩

/-- Settles O27: the one store index is the location in the bank as the selector left it, and a store into RAM changes
that byte only. -/
theorem writeToRamStoresOneByte : Obligations.WriteToRamStoresOneByte := by
  intro s a v off hi hc hd hk hfree
  have hwp : s.wpAt (segOf s.cfg off) = false := (wpAt_eq_false_iff _ _).mpr hfree
  have hidx := storeIndex_select hk hwp v
  have hex : exec (.write a v) s = _ := execWrite_stored hi hc v hd hidx
  refine ⟨_, hex, rfl, fun i hstore => ?_, Option.isSome_of_eq_some hidx, rfl, rfl, exec_bus_frame rfl hex⟩
  obtain rfl : phys (select s off true v) off = i := Option.some.inj (hidx.symm.trans hstore)
  refine ⟨by rw [phys, select_cfg]; rfl, ramAt_writeRam_same _ _ v, fun j hj => ?_⟩
  exact (ramAt_writeRam_other _ v hj).trans (ramAt_select s off true v j)

end Sys2Proof.Machine

/-! SUPPORT. What construction gives, `UNLOCK` and `QBANK` on a configured block, and the proofs of the statements about
construction, the unconfigured block and these two operations (10_state.md, 43_cartridge_scheme.md). -/

namespace Sys2Proof.Machine

/-! Construction -/

/-- Construction takes the configuration as it is and succeeds exactly when it is well-formed (R22, R90). -/
theorem construct_outcome (c : Cfg) (q : Bool) (d : Nat) :
    (State.construct c q d).cfg = c ∧ (State.construct c q d).configured = c.wf ∧
      (State.construct c q d).response = ⟨if c.wf then .ok else .configError, .nothing⟩ := by
  cases hw : c.wf <;> simp [State.construct, hw]

/-- Nothing is written into RAM at construction (R86). -/
theorem construct_ram (c : Cfg) (q : Bool) (d : Nat) : (State.construct c q d).ram = [] := by
  unfold State.construct
  split <;> rfl

/-- Every constructed block meets the invariant: with the reset values, or unconfigured; in both cases nothing is written
into RAM (R15, R29, R90). -/
theorem construct_inv (c : Cfg) (q : Bool) (d : Nat) : (State.construct c q d).Inv := by
  have hram := construct_ram c q d
  cases hw : c.wf
  · refine ⟨by simp [hram, Memory.wf], fun hc => ?_⟩
    simp [(construct_of_not_wf hw q d).1] at hc
  · obtain ⟨s, hcfg, he⟩ := construct_of_wf hw q d
    rw [he, State.succeed_ram, State.applyReset_ram] at hram
    rw [he]
    exact applyReset_inv (s := s) (by simp [hram, Memory.wf])
      (fun _ => ⟨hcfg ▸ hw, by simp [hram, Memory.within]⟩) q

/-! `UNLOCK` and `QBANK` -/

/-- `UNLOCK` clears `locked` under the externally-unlockable policy with `quirk` set (R20, R98). -/
theorem lockAfterUnlock_effPolicy (s : State) (l : Bool) :
    lockAfterUnlock s.effPolicy l = if s.quirk = true ∧ s.cfg.lockPolicy = .extUnlockable then false else l := by
  unfold State.effPolicy
  cases s.quirk <;> cases s.cfg.lockPolicy <;> rfl

/-- The segment a query names is one of the segments (R99). -/
theorem querySeg_lt {c : Cfg} (hw : c.wf = true) (seg : BitVec 16) : querySeg c seg < c.nseg :=
  Nat.mod_lt _ (Cfg.wf_nseg_pos hw)

/-! The statements -/

/-- Settles O6: construction sets `configured`, every operation keeps it, and every operation of a port tests it
first. -/
theorem unconfiguredBlockAnswersConfigError : Obligations.UnconfiguredBlockAnswersConfigError := by
  refine ⟨fun c q d => (construct_outcome c q d).2, fun i s t h => ?_, fun i s hp hc => exec_unconfigured hp hc⟩
  obtain ⟨_, hconf, _⟩ := exec_constants h
  exact hconf

/-- Settles O7: by whether the configuration is well-formed; a successful construction applies the reset values. -/
theorem constructionGivesResetValues : Obligations.ConstructionGivesResetValues := by
  intro c q d
  obtain ⟨hcfg, hconf, hresp⟩ := construct_outcome c q d
  refine ⟨hcfg, fun hw => ?_, fun hw => construct_of_not_wf hw q d⟩
  rw [hw] at hconf hresp
  obtain ⟨s, rfl, he⟩ := construct_of_wf hw q d
  refine ⟨hconf, ?_⟩
  rw [he]
  exact ⟨List.length_replicate, fun seg _ => bankAt_applyReset s q seg, rfl,
    fun hwp _ hseg => wpAtReset_getD hwp hseg, rfl, rfl⟩

/-- Settles O10: by whether the block is configured; then by the effective policy. -/
theorem unlockClearsTheLockUnderItsPolicy : Obligations.UnlockClearsTheLockUnderItsPolicy := by
  refine ⟨by decide, fun _ hc => whenConfigured_false hc _, fun s hc => ?_⟩
  rw [← lockAfterUnlock_effPolicy]
  exact whenConfigured_true hc _

/-- Settles O11: by whether the block is configured; the named segment is reduced, so the invariant bounds its bank. -/
theorem qbankAnswersTheBankRegister : Obligations.QbankAnswersTheBankRegister := by
  refine ⟨fun _ => rfl, fun _ _ hc => whenConfigured_false hc _, fun s seg hc => ?_⟩
  exact ⟨whenConfigured_true hc _, rfl, fun hi => Inv.bank_lt hi hc (querySeg_lt (Inv.wf hi hc) seg)⟩

/-- Settles O41: by whether the configuration is well-formed; `State.reset` is such a construction, whatever its free
values are. -/
theorem constructedBlocksMeetTheInvariant : Obligations.ConstructedBlocksMeetTheInvariant :=
  ⟨construct_inv, rfl, construct_inv (tvboyRef8 Config.hotOnRead [] Config.contentId) true 0⟩

end Sys2Proof.Machine

/-! SUPPORT. Which outcome each operation of a configured block ends with, and the proof of the statement about the order
of checks (60_exceptions.md). -/

namespace Sys2Proof.Machine

section
variable {s t : State} (hc : s.configured = true)
include hc

theorem execRead_status {a : BusAddr} (h : execRead a s = .next t) :
    t.response.status = if decodeAddr s.cfg a = none then .notHandled else .ok := by
  rcases execRead_next h with ⟨hc', _⟩ | ⟨_, hd, rfl⟩ | ⟨_, _, _, hd, _, rfl⟩
  · simp [hc] at hc'
  · simp [hd]
  · simp [hd]

theorem execWrite_status {a : BusAddr} {v : Byte} (h : execWrite a v s = .next t) :
    t.response.status = if decodeAddr s.cfg a = none then .notHandled else .ok := by
  rcases execWrite_next h with ⟨hc', _⟩ | ⟨_, hd, rfl⟩ | ⟨_, _, _, _, hd, _, _, rfl⟩
  · simp [hc] at hc'
  · simp [hd]
  · simp [hd]

/-- `SAVE` fails exactly where the output stream refuses one of the fields (R107). -/
theorem execSave_status (h : execSave s = .next t) :
    t.response.status = if (s.ports.outRefuses.any fun k =>
      decide (k < if s.cfg.hasWp then 2 * s.cfg.nseg + 1 else s.cfg.nseg + 1)) then .saveFailure else .ok := by
  rw [← fieldList_length]
  rcases hr : s.ports.outRefuses with _ | k
  · cases (execSave_appends hc (by simp [hr])).symm.trans h
    rfl
  by_cases hlt : k < (fieldList s).length
  · cases (execSave_refused hc hr hlt).symm.trans h
    simp [hlt]
  · have hok : ∀ k', s.ports.outRefuses = some k' →
        (if s.cfg.hasWp then 2 * s.cfg.nseg + 1 else s.cfg.nseg + 1) ≤ k' := by
      rw [← fieldList_length, hr]
      simpa using hlt
    cases (execSave_appends hc hok).symm.trans h
    simp [hlt]

/-- `LOAD` fails exactly where the input stream does not stage (R109, R110). -/
theorem execLoad_status (h : execLoad s = .next t) :
    t.response.status = if stage s.cfg s.ports.inStream = none then .loadFailure else .ok := by
  rcases execLoad_next h with ⟨hc', _⟩ | ⟨_, _, _, hs, rfl⟩ | ⟨_, hs, rfl⟩
  · simp [hc] at hc'
  · simp [hs]
  · simp [hs]

end

/-- Settles O44: every operation completes; the reserved and the unconfigured ends come first, and of a configured block
each operation of a port has its own two ends, or `OK` alone. -/
theorem outcomeFollowsTheCheckOrder : Obligations.OutcomeFollowsTheCheckOrder := by
  intro i s hi
  obtain ⟨t, hex⟩ := exec_completes hi i
  refine ⟨t, hex, ?_⟩
  by_cases hp : Instr.port i = none
  · cases (exec_reserved hp s).symm.trans hex
    rw [if_pos hp]
    rfl
  rw [if_neg hp]
  by_cases hc : s.configured = false
  · cases (exec_unconfigured hp hc).symm.trans hex
    rw [if_pos hc]
    rfl
  rw [if_neg hc]
  replace hc : s.configured = true := by simpa using hc
  cases i <;> simp [Instr.port] at hp
  case read a => exact execRead_status hc hex
  case write a v => exact execWrite_status hc hex
  case save => exact execSave_status hc hex
  case load => exact execLoad_status hc hex
  all_goals
    cases (whenConfigured_true hc _).symm.trans hex
    rfl

end Sys2Proof.Machine
